-- ==== Sys2Proof/Word.lean ====
section
/-! DEFINITION. The word types of the machine: an 8-bit byte and a 16-bit word (10_state.md R10, R11). -/

namespace Sys2Proof

/-- A value of an 8-bit register, an opcode byte, or one byte of a device (10_state.md R10). -/
abbrev Byte := BitVec 8

/-- A value of a 16-bit register, or a 16-bit word in memory (10_state.md R10, 20_memory.md R44). -/
abbrev Word := BitVec 16

/-- One of the eight interrupt lines (60_exceptions.md R150). -/
abbrev Line := Fin 8

end Sys2Proof
end

