-- ==== Sys2Proof/Config.lean ====
section
/-! DEFINITION. What an implementation fixes (00_scope.md R4 and section 5), and the free values.
The parameters are a plain record: the machine takes them as an argument, which State carries in its field `params`
and no operation writes. The free values are opaque constants: no proof can see what they are. -/

namespace Sys2Proof

/-- `P_DEVICE_FAULT_POLICY` (60_exceptions.md R142): what a DeviceFault does to the running operation. -/
inductive FaultPolicy where
  /-- The DeviceFault is raised like any fault. -/
  | halt
  /-- The failing read gives zero, the failing write is dropped, the fault goes to the log. -/
  | sentinel
  deriving DecidableEq, Repr

/-- The implementation parameters of 00_scope.md section 5 that are not the shape of the register file or of the bus.
`P_GPRS` is the shape of the list `State.gprs`, the boot region map is `State.regions`. -/
structure Params where
  /-- `P_OPC_LDA_IMM`, the opcode byte of LDA immediate (30_encoding.md R86). -/
  opcLdaImm : Byte
  /-- `P_CYC_LDA_IMM`, the cycle cost in the dispatch table (70_reset_and_hazards.md R195): no rule reads it. -/
  cycLdaImm : Nat
  /-- `P_FLAG_Z_BIT`, the bit of FR that is the zero flag (10_state.md R14). -/
  flagZ : Fin 8
  /-- `P_FLAG_N_BIT`, the bit of FR that is the negative flag (10_state.md R14). -/
  flagN : Fin 8
  /-- `P_PC_RESET` (70_reset_and_hazards.md R181). -/
  pcReset : Word
  /-- `P_SP_RESET` (70_reset_and_hazards.md R181). -/
  spReset : Word
  /-- `P_FP_RESET` (70_reset_and_hazards.md R181). -/
  fpReset : Word
  /-- `P_ROM_ORIGIN`, where the host loads the boot image (20_memory.md R71). -/
  romOrigin : Nat
  /-- `P_ADDR_IE`, the bus address of the IE byte (10_state.md R18): 16 bits, as the core forms no higher address
  for it (20_memory.md R72; entry 25). -/
  addrIE : Word
  /-- `P_ADDR_IF`, the bus address of the IF byte, as `addrIE` (10_state.md R18). -/
  addrIF : Word
  /-- `P_VECTOR_BASE`, the bus address of the interrupt vector table (60_exceptions.md R156). -/
  vectorBase : Nat
  /-- `P_DEVICE_FAULT_POLICY` (60_exceptions.md R142). -/
  policy : FaultPolicy
  deriving DecidableEq, Repr

/-- The free draw of 20_memory.md R44 (`partial <- draw Boolean`): whether the n-th failing RAM word write wrote its low
byte. Nothing constrains it (entry 8). -/
opaque Config.wordWriteDraw : Nat → Bool

/-- Which refusal a load reports when it both overflows its device and hits an accessed ROM: 20_memory.md R45 names both
and orders neither. True: LoadOverflow; false: ROMLoadRejected. Nothing constrains it (entry 9). -/
opaque Config.loadOverflowFirst : Bool

end Sys2Proof
end

