-- ==== Sys2Proof/Syntax.lean ====
section
/-! DEFINITION. The instructions, the instruction formats and the dispatch table's entries (30_encoding.md section 1). -/

namespace Sys2Proof

/-- The instructions: one constructor per row of spec/opcode_table.json. -/
inductive Instr where
  /-- `LDA_IMM` (41_load.md R120): load the accumulator with the immediate byte. -/
  | ldaImm (imm : Byte)
  deriving DecidableEq, Repr

/-- The mnemonics of the dispatch table (30_encoding.md R86): an instruction without its operands. -/
inductive Mnemonic where
  /-- `LDA_IMM`. -/
  | ldaImm
  deriving DecidableEq, Repr

/-- The mnemonic of an instruction. -/
def Instr.mnemonic : Instr → Mnemonic
  | .ldaImm _ => .ldaImm

/-- The instruction formats the fetch primitives support (30_encoding.md R84). -/
inductive Format where
  /-- The opcode alone, size 1. -/
  | op
  /-- The opcode and an 8-bit immediate, size 2. -/
  | i8
  /-- The opcode and a little-endian 16-bit immediate, size 3. -/
  | i16
  deriving DecidableEq, Repr

/-- The operand an instruction of a format carries (30_encoding.md R84, R85). -/
abbrev OperandOf : Format → Type
  | .op => Unit
  | .i8 => Byte
  | .i16 => Word

/-- The encoded size of a format in bytes, the opcode byte included (30_encoding.md R84). -/
def Format.size : Format → Nat
  | .op => 1
  | .i8 => 2
  | .i16 => 3

/-- The format of an instruction (30_encoding.md R86, column "format"). -/
def Mnemonic.format : Mnemonic → Format
  | .ldaImm => .i8

/-- The instruction a mnemonic makes of its operand. -/
def Mnemonic.instr : (m : Mnemonic) → OperandOf m.format → Instr
  | .ldaImm, imm => .ldaImm imm

/-- One entry of the dispatch table (30_encoding.md R82). The entry's execute function is the meaning that `Machine.exec`
calls for the instructions of its mnemonic. -/
structure Entry where
  /-- The opcode byte. -/
  opcode : Byte
  /-- The mnemonic. -/
  mnemonic : Mnemonic
  /-- The encoded size, counting the opcode byte. -/
  size : Nat
  /-- The cycle cost, which no rule reads (70_reset_and_hazards.md R195). -/
  cycles : Nat
  deriving DecidableEq, Repr

end Sys2Proof
end

