-- ==== Sys2Proof/WellFormed.lean ====
section
/-! DEFINITION. Well-formedness of instructions, parameters and dispatch tables. -/

namespace Sys2Proof

/-- A well-formed instruction. "Every byte value is legal in an operand position" (30_encoding.md R85), and the operand's
type holds bytes only, so every instruction term is well-formed. -/
def Instr.wf : Instr → Bool
  | .ldaImm _ => true

/-- Well-formed parameters: the two flag bits differ (10_state.md R14 and 00_scope.md section 5), and
`P_FP_RESET = P_SP_RESET` (70_reset_and_hazards.md R181). -/
def Params.wf (p : Params) : Bool :=
  p.flagZ != p.flagN && p.fpReset == p.spReset

/-- No two entries of a dispatch table have the same opcode (30_encoding.md R82). -/
def opcodesDistinct : List Entry → Bool
  | [] => true
  | e :: es => es.all (fun e' => e'.opcode != e.opcode) && opcodesDistinct es

/-- A well-formed dispatch table: distinct opcodes, and every size is the format's, so at least 1 (30_encoding.md R82). -/
def tableWf (t : List Entry) : Bool :=
  opcodesDistinct t && t.all (fun e => e.size == e.mnemonic.format.size)

end Sys2Proof
end

