-- ==== Sys2Proof/Decode.lean ====
section
/-! DEFINITION. The dispatch table, the decoder, the encoder, and the byte order of instruction operands
(30_encoding.md). -/

namespace Sys2Proof

/-- The low byte of a word, the one at the lower address (20_memory.md R44). -/
def lowByte (w : Word) : Byte := w.extractLsb' 0 8

/-- The high byte of a word (20_memory.md R44). -/
def highByte (w : Word) : Byte := w.extractLsb' 8 8

/-- The word `{hi, lo}` of its two bytes (20_memory.md R44). -/
def joinBytes (lo hi : Byte) : Word := hi ++ lo

/-- The parameters of the test configuration TC (92_eei_decisions.md D32), with the spec's defaults for the opcode and the
flag bits (D4, D5). They are the parameters of `State.reset` and of `decodeTableWord`, and stand here because they say
which byte the default machine decodes as LDA_IMM (entries 1, 3 and 19). -/
def Params.tc : Params where
  opcLdaImm := 0xA9#8
  cycLdaImm := 0
  flagZ := 1
  flagN := 7
  pcReset := 0x8000#16
  spReset := 0x01FE#16
  fpReset := 0x01FE#16
  romOrigin := 0x8000
  addrIE := 0xFF00#16
  addrIF := 0xFF01#16
  vectorBase := 0xFFE0
  policy := .halt

/-- The dispatch table (30_encoding.md R86): one entry, LDA_IMM. -/
def dispatchTable (p : Params) : List Entry :=
  [{ opcode := p.opcLdaImm, mnemonic := .ldaImm, size := 2, cycles := p.cycLdaImm }]

/-- Decoding of an opcode byte (30_encoding.md R81, R88): the one entry with that opcode, or none. It reads no operand. -/
def decodeOpcode (p : Params) (op : Byte) : Option Entry :=
  (dispatchTable p).find? (fun e => e.opcode == op)

/-- The operand of a format at the front of a byte sequence (30_encoding.md R84, R85), with the bytes after it. None: the
sequence is too short. -/
def readOperand : (f : Format) → List Byte → Option (OperandOf f × List Byte)
  | .op, bs => some ((), bs)
  | .i8, b :: bs => some (b, bs)
  | .i16, lo :: hi :: bs => some (joinBytes lo hi, bs)
  | _, _ => none

/-- What the decoder answers on a byte sequence. -/
inductive Decoded where
  /-- An instruction, and the bytes after it. -/
  | instr (i : Instr) (rest : List Byte)
  /-- `Unknown(op)`: the opcode has no dispatch entry (30_encoding.md R88). -/
  | unknown (op : Byte)
  /-- The sequence ends before the instruction does. The machine itself never meets this: it fetches byte by byte
  (entry 21). -/
  | truncated
  deriving DecidableEq, Repr

/-- The decoder on a byte sequence, total on any bytes (30_encoding.md R80, R88). -/
def decode (p : Params) : List Byte → Decoded
  | [] => .truncated
  | op :: bs =>
    match decodeOpcode p op with
    | none => .unknown op
    | some e =>
      match readOperand e.mnemonic.format bs with
      | none => .truncated
      | some (x, rest) => .instr (e.mnemonic.instr x) rest

/-- The encoder: the bytes of an instruction (30_encoding.md R84, R86). -/
def encode (p : Params) : Instr → List Byte
  | .ldaImm imm => [p.opcLdaImm, imm]

/-- The number of bytes of the longest instruction of the dispatch table (30_encoding.md R86). -/
def longestInstr : Nat := 2

/-- The bytes of an instruction given as a number, first byte least significant; bits from `nbits` up are zero. -/
def instrBytes (nbits w : Nat) : List Byte :=
  (List.range longestInstr).map (fun k => BitVec.ofNat 8 ((w % 2 ^ nbits) / 2 ^ (8 * k)))

/-- The instruction the decoder reads from an instruction whose bits are `w`, under the test configuration's opcode. -/
def decodeTableWord (nbits w : Nat) : Option Instr :=
  match decode Params.tc (instrBytes nbits w) with
  | .instr i _ => some i
  | .unknown _ => none
  | .truncated => none

end Sys2Proof
end

