-- ==== Sys2Proof/Machine/State.lean ====
section
/-! DEFINITION. The machine's state (10_state.md), its faults and refusals, the calls the host makes and what they return,
and the state right after reset. -/

namespace Sys2Proof.Machine

/-! ## Faults -/

/-- The width of a memory access (20_memory.md R69). -/
inductive Width where
  /-- One byte. -/
  | byte
  /-- Two bytes. -/
  | word
  deriving DecidableEq, Repr

/-- The direction of a memory access (20_memory.md R41). -/
inductive Dir where
  /-- A read. -/
  | read
  /-- A write. -/
  | write
  deriving DecidableEq, Repr

/-- `DevFail(off, width, direction)`: a device access failed (20_memory.md R41, R44). -/
structure DevFail where
  /-- The local offset. -/
  offset : Nat
  /-- The width of the access. -/
  width : Width
  /-- Its direction. -/
  dir : Dir
  deriving DecidableEq, Repr

/-- What a DeviceFault records: the bus address and the device failure under it (20_memory.md R60). -/
structure DeviceReport where
  /-- The bus address of the access. -/
  addr : Nat
  /-- The device's failure. -/
  info : DevFail
  deriving DecidableEq, Repr

/-- A failure of a bus access, before any policy is applied (20_memory.md R54, R60). A host poke gets it as its result
(R64). -/
inductive BusFail where
  /-- `Unmapped(a)`: no region contains the address. -/
  | unmapped (addr : Nat)
  /-- The device the address resolves to failed. -/
  | device (report : DeviceReport)
  deriving DecidableEq, Repr

/-- The fault kinds (60_exceptions.md R140), with what each records. A fault is RAISED (R145): the running operation ends
in a NEXT state whose fault record holds it, and the core is halted until reset. So no step answers the outcome `fault`;
that is exact, as the spec describes what raising a fault leaves behind (R146). -/
inductive Fault where
  /-- Code 1: no region contains the address of a core access (R141). Raised by every core access to memory.
  Safe: the spec's own fault. -/
  | unmappedAddress (addr : Nat)
  /-- Code 2: a device access of the core failed, under the policy `halt` (R142). Raised by every core access to memory.
  Safe: the spec's own fault. -/
  | deviceFault (report : DeviceReport)
  /-- Code 3: the fetched opcode has no dispatch entry (R143). Raised by `cycle()`. Safe: the spec's own fault. -/
  | unknownInstruction (opcode : Byte) (pc : Word)
  deriving DecidableEq, Repr

/-- Why a step is refused. -/
inductive Refusal where
  /-- An instruction that has no meaning yet, by its mnemonic; raised by no arm of `exec`: every instruction has its
  meaning. Safe. -/
  | notModelled (mnemonic : String)
  /-- `Halted` (60_exceptions.md R147): `cycle()` has no step while the fault record is not none. Raised by a step with no
  host call queued. Safe: it is the spec's own refusal (entry 6). -/
  | halted
  deriving DecidableEq, Repr

/-! ## The host's calls -/

/-- The host errors of 60_exceptions.md R148. -/
inductive HostError where
  /-- `bus.map` with size 0. -/
  | badSize
  /-- A load that does not fit in its device. -/
  | loadOverflow
  /-- A load into a ROM after it was accessed. -/
  | romLoadRejected
  /-- A load at an unmapped address. -/
  | loadUnmapped
  /-- An interrupt line outside 0 to 7. -/
  | badLine
  /-- An operation refused while the core is halted (R147). -/
  | halted
  /-- The MODEL's own: `bus.map` of a device that does not exist (entry 10). -/
  | noSuchDevice
  deriving DecidableEq, Repr

/-- The interface operations of the host table (00_scope.md section 4). Addresses, sizes and counts are natural numbers
(92_eei_decisions.md D16); lines and written values are integers, checked or masked by the operation. -/
inductive HostCall where
  /-- `cycle()`. -/
  | cycle
  /-- `handle_interrupts()`. -/
  | handleInterrupts
  /-- `request_interrupt(line)`. -/
  | requestInterrupt (line : Int)
  /-- `is_interrupt_requested(line)`. -/
  | isInterruptRequested (line : Int)
  /-- `clear_interrupt_flag(line)`. -/
  | clearInterruptFlag (line : Int)
  /-- `reset()`. -/
  | reset
  /-- `bus.map(label, device, start, size, remap)`. -/
  | map (label : String) (device start size : Nat) (remap : Bool)
  /-- `bus.unmap(token)`. -/
  | unmap (token : Nat)
  /-- `bus.load(data, offset)`. -/
  | load (data : List Byte) (addr : Nat)
  /-- `bus.read(a)`, a host poke. -/
  | read (addr : Nat)
  /-- `bus.read16(a)`, a host poke. -/
  | read16 (addr : Nat)
  /-- `bus.write(a, b)`, a host poke. -/
  | write (addr : Nat) (value : Int)
  /-- `bus.write16(a, w)`, a host poke. -/
  | write16 (addr : Nat) (value : Int)
  /-- `bus.byte_length()`. -/
  | byteLength
  /-- `inspect(address, n)`. -/
  | inspect (addr count : Nat)
  deriving DecidableEq, Repr

/-- What an interface operation returns (00_scope.md section 4, column "result"). -/
inductive HostReply where
  /-- The operation has no result and ended normally. -/
  | done
  /-- The operation raised a fault and returns no value (60_exceptions.md R145); the fault record says which. -/
  | raised
  /-- The operation refused its arguments, or the core is halted (R148). -/
  | error (e : HostError)
  /-- The line `handle_interrupts()` dispatched, or none (R154). -/
  | line (l : Option Line)
  /-- The answer of `is_interrupt_requested` (R152). -/
  | flag (b : Bool)
  /-- The byte `bus.read` returns (20_memory.md R55). -/
  | byte (b : Byte)
  /-- The word `bus.read16` returns (R56). -/
  | word (w : Word)
  /-- The unmap token `bus.map` returns (R50). -/
  | token (t : Nat)
  /-- The length `bus.byte_length()` returns (R52). -/
  | length (n : Nat)
  /-- The bytes `inspect` returns, none for `absent` (R70). -/
  | bytes (bs : List (Option Byte))
  /-- A host poke failed (R64). -/
  | failed (f : BusFail)
  deriving DecidableEq, Repr

/-! ## State -/

/-- The bytes of a device: offset and byte pairs, offsets strictly rising, no byte listed that equals what an unlisted
offset reads as (`Memory.wf` in Machine/Memory.lean says so). -/
abbrev Memory := List Host.Cell

/-- A device's kind (20_memory.md R40). A ROM holds its `accessed` bit (10_state.md R23). -/
inductive DeviceKind where
  /-- RAM. -/
  | ram
  /-- ROM, and whether a read or a write has reached it since it was made or last reset. -/
  | rom (accessed : Bool)
  deriving DecidableEq, Repr

/-- A device (10_state.md R23). Its identity is its place in `State.devices`. -/
structure Device where
  /-- RAM or ROM. -/
  kind : DeviceKind
  /-- The capacity C: the offsets are 0 to C−1. -/
  capacity : Nat
  /-- The bytes. -/
  mem : Memory
  deriving DecidableEq, Repr

/-- A region (10_state.md R22, 20_memory.md R42). -/
structure Region where
  /-- Its identity, the unmap token. -/
  token : Nat
  /-- A label for diagnostics; it has no effect on any rule. -/
  label : String
  /-- The device it binds, by place in `State.devices`. -/
  device : Nat
  /-- The first bus address. -/
  start : Nat
  /-- The last bus address, inclusive (the spec's `end`). -/
  last : Nat
  /-- Whether addresses are translated to offsets from `start` (20_memory.md R53). -/
  remap : Bool
  deriving DecidableEq, Repr

/-- The value of a general-purpose register, of either width (10_state.md R21). -/
inductive RegVal where
  /-- An 8-bit register. -/
  | w8 (v : Byte)
  /-- A 16-bit register. -/
  | w16 (v : Word)
  deriving DecidableEq, Repr

/-- A general-purpose register: one entry of `P_GPRS` and its value (10_state.md R21). -/
structure Gpr where
  /-- The register's name. -/
  name : String
  /-- Its value; its constructor is its width. -/
  val : RegVal
  deriving DecidableEq, Repr

/-- The state of the block: everything 10_state.md gives it, then the model's own fields. -/
structure State where
  /-- The implementation parameters (00_scope.md R4), the machine's argument: no operation writes them (entry 1). -/
  params : Params
  /-- A, the accumulator (10_state.md R13). -/
  a : Byte
  /-- FR, the flags register (R14). -/
  fr : Byte
  /-- IR, the instruction register (R16). -/
  ir : Byte
  /-- PC, the program counter (R17). -/
  pc : Word
  /-- SP, the stack pointer (R19). -/
  sp : Word
  /-- FP, the frame pointer (R20). -/
  fp : Word
  /-- The general-purpose registers, `P_GPRS` with their values (R21). -/
  gprs : List Gpr
  /-- The region list, front first (R22). -/
  regions : List Region
  /-- The devices (R23). IE, IF, the stack and the vector table are bytes of theirs (R18). -/
  devices : List Device
  /-- The fault record (R24). -/
  fault : Option Fault
  /-- The log of the DeviceFaults the sentinel policy let pass, in order (R24). -/
  devlog : List DeviceReport
  /-- The MODEL's own: the next fresh unmap token (20_memory.md R50; entry 12). -/
  nextToken : Nat
  /-- The MODEL's own: how many free draws have been taken (20_memory.md R44; entry 8). -/
  draws : Nat
  /-- The MODEL's own: the interface operations the host will call next, in order (00_scope.md R3; entry 5). -/
  hostCalls : List HostCall
  /-- The MODEL's own: what the last queued call returned (entry 11). -/
  reply : Option HostReply
  deriving DecidableEq, Repr

/-! ## Reset -/

/-- The region list of the test configuration, front first (92_eei_decisions.md D32; entry 2). -/
def tcRegions : List Region :=
  [{ token := 3, label := "io", device := 3, start := 0xFF00, last := 0xFFFF, remap := true },
   { token := 2, label := "tiny", device := 2, start := 0xC000, last := 0xC01F, remap := true },
   { token := 1, label := "rom", device := 1, start := 0x8000, last := 0xBFFF, remap := true },
   { token := 0, label := "ram", device := 0, start := 0x0000, last := 0x7FFF, remap := true }]

/-- The devices of the test configuration, every byte zero: RAM0, ROM0, TINY, IO (92_eei_decisions.md D32; entry 2). -/
def tcDevices : List Device :=
  [{ kind := .ram, capacity := 0x8000, mem := [] },
   { kind := .rom false, capacity := 0x4000, mem := [] },
   { kind := .ram, capacity := 0x10, mem := [] },
   { kind := .ram, capacity := 0x100, mem := [] }]

/-- The general-purpose registers of the test configuration, zero (92_eei_decisions.md D32; entry 1). -/
def tcGprs : List Gpr :=
  [{ name := "G0", val := .w8 0 }, { name := "G1", val := .w8 0 },
   { name := "G2", val := .w8 0 }, { name := "G3", val := .w8 0 }]

/-- The machine right after reset (10_state.md R26, R27): the state after `reset()` over the host's map, with the
parameters, the map and the register set of the test configuration (entries 1 and 2). -/
def State.reset : State where
  params := Params.tc
  a := 0
  fr := 0
  ir := 0
  pc := Params.tc.pcReset
  sp := Params.tc.spReset
  fp := Params.tc.fpReset
  gprs := tcGprs
  regions := tcRegions
  devices := tcDevices
  fault := none
  devlog := []
  nextToken := 4
  draws := 0
  hostCalls := []
  reply := none

end Sys2Proof.Machine
end

