-- ==== Sys2Proof/Machine/Update.lean ====
section
/-! DEFINITION. The field updates of State: every operation writes the state through these. -/

namespace Sys2Proof.Machine

/-- Writes A (10_state.md R13). -/
def State.setA (s : State) (v : Byte) : State := { s with a := v }

/-- Writes FR (10_state.md R14). -/
def State.setFr (s : State) (v : Byte) : State := { s with fr := v }

/-- Writes IR (10_state.md R16). -/
def State.setIr (s : State) (v : Byte) : State := { s with ir := v }

/-- Writes PC (10_state.md R17). -/
def State.setPc (s : State) (v : Word) : State := { s with pc := v }

/-- Writes SP (10_state.md R19). -/
def State.setSp (s : State) (v : Word) : State := { s with sp := v }

/-- Writes FP (10_state.md R20). -/
def State.setFp (s : State) (v : Word) : State := { s with fp := v }

/-- Writes the general-purpose registers (10_state.md R21). -/
def State.setGprs (s : State) (v : List Gpr) : State := { s with gprs := v }

/-- Writes the region list (10_state.md R22). -/
def State.setRegions (s : State) (v : List Region) : State := { s with regions := v }

/-- Writes the devices (10_state.md R23). -/
def State.setDevices (s : State) (v : List Device) : State := { s with devices := v }

/-- Writes the fault record (10_state.md R24). -/
def State.setFault (s : State) (v : Option Fault) : State := { s with fault := v }

/-- Writes the log of passed DeviceFaults (10_state.md R24). -/
def State.setDevlog (s : State) (v : List DeviceReport) : State := { s with devlog := v }

/-- Writes the next unmap token (the model's own field). -/
def State.setNextToken (s : State) (v : Nat) : State := { s with nextToken := v }

/-- Writes the count of free draws (the model's own field). -/
def State.setDraws (s : State) (v : Nat) : State := { s with draws := v }

/-- Writes the queue of host calls (the model's own field). -/
def State.setHostCalls (s : State) (v : List HostCall) : State := { s with hostCalls := v }

/-- Writes the last reply (the model's own field). -/
def State.setReply (s : State) (v : Option HostReply) : State := { s with reply := v }

end Sys2Proof.Machine
end

