-- ==== Sys2Proof/Machine/Memory.lean ====
section
/-! DEFINITION. Device bytes in one canonical form, and the device operations (20_memory.md section 1). -/

namespace Sys2Proof.Machine

/-! ## The bytes of a device -/

/-- What an unlisted offset reads as: 0x00, which is what reset leaves in every byte (20_memory.md R46). -/
def Memory.unlisted : Byte := 0#8

/-- The byte at an offset. -/
def Memory.read : Memory → Nat → Byte
  | [], _ => Memory.unlisted
  | c :: m, off => if c.1 = off then c.2 else Memory.read m off

/-- The memory with no entry for an offset. -/
def Memory.erase (m : Memory) (off : Nat) : Memory := m.filter (fun c => c.1 != off)

/-- Adds an entry before the first larger offset. -/
def Memory.insert : Memory → Nat → Byte → Memory
  | [], off, b => [(off, b)]
  | c :: m, off, b => if off < c.1 then (off, b) :: c :: m else c :: Memory.insert m off b

/-- Writes one byte; writing what an unlisted offset reads as removes the entry. -/
def Memory.write (m : Memory) (off : Nat) (b : Byte) : Memory :=
  if b = Memory.unlisted then m.erase off else (m.erase off).insert off b

/-- Writes a sequence of bytes from an offset on (20_memory.md R45). -/
def Memory.store : Memory → Nat → List Byte → Memory
  | m, _, [] => m
  | m, off, b :: bs => (m.write off b).store (off + 1) bs

/-- The canonical form: offsets strictly rising, and no entry equal to what an unlisted offset reads as. -/
abbrev Memory.wf (m : Memory) : Prop :=
  m.Pairwise (fun c d => c.1 < d.1) ∧ ∀ c ∈ m, c.2 ≠ Memory.unlisted

/-! ## Device operations -/

/-- The result of a device access: a value, or `DevFail`; either way the device after it. -/
inductive DevResult (α : Type) where
  /-- The access succeeded. -/
  | ok (a : α) (d : Device)
  /-- The access failed. -/
  | fail (f : DevFail) (d : Device)
  deriving DecidableEq, Repr

/-- Whether a device is a ROM. -/
def Device.isRom (d : Device) : Bool :=
  match d.kind with
  | .ram => false
  | .rom _ => true

/-- Whether a device is a ROM that an access has reached since it was made or last reset (20_memory.md R48). -/
def Device.romAccessed (d : Device) : Bool :=
  match d.kind with
  | .ram => false
  | .rom acc => acc

/-- Sets a ROM's `accessed` bit; a RAM has none (20_memory.md R43). -/
def Device.touch (d : Device) : Device :=
  match d.kind with
  | .ram => d
  | .rom _ => { d with kind := .rom true }

/-- The device with other bytes. -/
def Device.withMem (d : Device) (m : Memory) : Device := { d with mem := m }

/-- `read(off)` (20_memory.md R41, R43). -/
def Device.read (d : Device) (off : Nat) : DevResult Byte :=
  if off < d.capacity then .ok (d.mem.read off) d.touch
  else .fail { offset := off, width := .byte, dir := .read } d

/-- `write(off, b)`: a ROM drops it and never fails (20_memory.md R41, R43). -/
def Device.write (d : Device) (off : Nat) (b : Byte) : DevResult Unit :=
  match d.kind with
  | .rom _ => .ok () d.touch
  | .ram =>
    if off < d.capacity then .ok () (d.withMem (d.mem.write off b))
    else .fail { offset := off, width := .byte, dir := .write } d

/-- `read16(off)`, little-endian; nothing is read where the word does not fit (20_memory.md R44). -/
def Device.read16 (d : Device) (off : Nat) : DevResult Word :=
  if off + 1 < d.capacity then .ok (joinBytes (d.mem.read off) (d.mem.read (off + 1))) d.touch
  else .fail { offset := off, width := .word, dir := .read } d

/-- `write16(off, w)`, little-endian; `low` is the free draw: whether a word that does not fit still wrote its low byte
(20_memory.md R44). -/
def Device.write16 (d : Device) (off : Nat) (w : Word) (low : Bool) : DevResult Unit :=
  match d.kind with
  | .rom _ => .ok () d.touch
  | .ram =>
    if off + 1 < d.capacity then
      .ok () (d.withMem ((d.mem.write off (lowByte w)).write (off + 1) (highByte w)))
    else
      .fail { offset := off, width := .word, dir := .write }
        (if low && decide (off < d.capacity) then d.withMem (d.mem.write off (lowByte w)) else d)

/-- `load(data, off)`: the device after it, or the host error (20_memory.md R45, R48). Where both refusals hold, which one
is reported is a free constant (entry 9). -/
def Device.load (d : Device) (data : List Byte) (off : Nat) : Except HostError Device :=
  if d.capacity < off + data.length then
    .error (if d.romAccessed && !Config.loadOverflowFirst then .romLoadRejected else .loadOverflow)
  else if d.romAccessed then .error .romLoadRejected
  else .ok (d.withMem (d.mem.store off data))

/-- `reset()` of a device: every byte 0x00, a ROM's `accessed` bit false (20_memory.md R46). -/
def Device.reset (d : Device) : Device :=
  match d.kind with
  | .ram => { d with mem := [] }
  | .rom _ => { d with kind := .rom false, mem := [] }

/-- `length()` (20_memory.md R47). -/
def Device.length (d : Device) : Nat := d.capacity

end Sys2Proof.Machine
end

