-- ==== Sys2Proof/Machine/Bus.lean ====
section
/-! DEFINITION. The bus address decoder and the bus operations (20_memory.md section 2). -/

namespace Sys2Proof.Machine

/-! ## Regions and resolution -/

/-- Whether a region contains a bus address (20_memory.md R42). -/
def Region.contains (r : Region) (addr : Nat) : Bool := decide (r.start ≤ addr) && decide (addr ≤ r.last)

/-- The local offset of an address in a region (20_memory.md R53). -/
def Region.offset (r : Region) (addr : Nat) : Nat := if r.remap then addr - r.start else addr

/-- The first region, from the front, that contains an address (20_memory.md R53). -/
def findRegion (rs : List Region) (addr : Nat) : Option Region := rs.find? (fun r => r.contains addr)

/-- `resolve(a)`: the device and the local offset, or none when no region contains the address (20_memory.md R53, R54). -/
def State.resolve (s : State) (addr : Nat) : Option (Nat × Nat) :=
  (findRegion s.regions addr).map (fun r => (r.device, r.offset addr))

/-- The device a region refers to that names no device: a RAM of capacity 0, whose every access fails. No state that the
boot and the steps reach has such a region (entry 10). -/
def Device.missing : Device := { kind := .ram, capacity := 0, mem := [] }

/-- The device of an identity (20_memory.md R49). -/
def State.device (s : State) (i : Nat) : Device := s.devices.getD i Device.missing

/-- Replaces one device. -/
def State.setDevice (s : State) (i : Nat) (d : Device) : State := s.setDevices (s.devices.set i d)

/-! ## Bus accesses -/

/-- The result of a bus access: a value, or the bus failure; either way the state after it. -/
inductive BusResult (α : Type) where
  /-- The access succeeded. -/
  | ok (a : α) (s : State)
  /-- The access failed. -/
  | fail (f : BusFail) (s : State)
  deriving DecidableEq, Repr

/-- The one shape of a bus access: resolve the address once, then let the device do the access; a device failure is
reported with the bus address (20_memory.md R54 to R58, R60). -/
def State.busAccess (s : State) (addr : Nat) {α : Type} (f : Device → Nat → DevResult α) : BusResult α :=
  match s.resolve addr with
  | none => .fail (.unmapped addr) s
  | some (i, off) =>
    match f (s.device i) off with
    | .ok a d => .ok a (s.setDevice i d)
    | .fail e d => .fail (.device { addr := addr, info := e }) (s.setDevice i d)

/-- `bus.read(a)` (20_memory.md R55). -/
def State.busRead (s : State) (addr : Nat) : BusResult Byte := s.busAccess addr Device.read

/-- `bus.read16(a)` (20_memory.md R56). -/
def State.busRead16 (s : State) (addr : Nat) : BusResult Word := s.busAccess addr Device.read16

/-- `bus.write(a, b)` of a byte (20_memory.md R57). -/
def State.busWrite (s : State) (addr : Nat) (b : Byte) : BusResult Unit :=
  s.busAccess addr (fun d off => d.write off b)

/-- Counts the free draw that a failing RAM word write took (20_memory.md R44). -/
def BusResult.countDraw : BusResult Unit → BusResult Unit
  | .fail (.device r) s => .fail (.device r) (s.setDraws (s.draws + 1))
  | .fail (.unmapped addr) s => .fail (.unmapped addr) s
  | .ok u s => .ok u s

/-- `bus.write16(a, w)` of a word (20_memory.md R58). -/
def State.busWrite16 (s : State) (addr : Nat) (w : Word) : BusResult Unit :=
  (s.busAccess addr (fun d off => d.write16 off w (Config.wordWriteDraw s.draws))).countDraw

/-- The device byte an address resolves to, with no effect; none where the address is unmapped or past the device's
capacity. The inspector returns it (20_memory.md R70), and statements read memory through it. -/
def State.peek (s : State) (addr : Nat) : Option Byte :=
  match s.resolve addr with
  | none => none
  | some (i, off) => if off < (s.device i).capacity then some ((s.device i).mem.read off) else none

/-! ## The region list and the devices -/

/-- `bus.map`: the new region goes to the front, under a fresh token (20_memory.md R50). -/
def State.busMap (s : State) (label : String) (device start size : Nat) (remap : Bool) :
    Except HostError (Nat × State) :=
  if size = 0 then .error .badSize
  else if s.devices.length ≤ device then .error .noSuchDevice
  else .ok (s.nextToken,
    (s.setRegions ({ token := s.nextToken, label := label, device := device, start := start,
                     last := start + size - 1, remap := remap } :: s.regions)).setNextToken (s.nextToken + 1))

/-- `bus.unmap(token)`: the region the token names leaves the list; a token of no region changes nothing
(20_memory.md R51). -/
def State.busUnmap (s : State) (token : Nat) : State :=
  s.setRegions (s.regions.filter (fun r => r.token != token))

/-- `bus.byte_length()`: the highest `end` plus one, 0 for an empty list (20_memory.md R52). -/
def State.busByteLength (s : State) : Nat := s.regions.foldr (fun r n => max (r.last + 1) n) 0

/-- `bus.load(data, a)`: the address is resolved once, and the whole of `data` goes to that one device
(20_memory.md R61). -/
def State.busLoad (s : State) (data : List Byte) (addr : Nat) : Except HostError State :=
  match s.resolve addr with
  | none => .error .loadUnmapped
  | some (i, off) =>
    match (s.device i).load data off with
    | .error e => .error e
    | .ok d => .ok (s.setDevice i d)

/-- Whether some region refers to a device. -/
def State.mapped (s : State) (i : Nat) : Bool := s.regions.any (fun r => r.device == i)

/-- `bus.reset()`: every device a region refers to is reset once; the region list stays (20_memory.md R62). -/
def State.busReset (s : State) : State :=
  s.setDevices (s.devices.mapIdx (fun i d => if s.mapped i then d.reset else d))

/-- `inspect(a, n)` (20_memory.md R70). -/
def State.inspect (s : State) (addr count : Nat) : List (Option Byte) :=
  (List.range count).map (fun k => s.peek (addr + k))

end Sys2Proof.Machine
end

