-- ==== Sys2Proof/Machine/Registers.lean ====
section
/-! DEFINITION. The register file by name: read and masked write (10_state.md R10 to R12, R21). -/

namespace Sys2Proof.Machine

/-- The names of the registers stored in the register file (10_state.md R10). IE and IF are bus bytes, not registers of the
file (R18). A general-purpose register is named by its place in `P_GPRS` (entry 15). -/
inductive RegName where
  /-- A. -/
  | a
  /-- FR. -/
  | fr
  /-- IR. -/
  | ir
  /-- PC. -/
  | pc
  /-- SP. -/
  | sp
  /-- FP. -/
  | fp
  /-- The k-th entry of `P_GPRS`. -/
  | gpr (k : Nat)
  deriving DecidableEq, Repr

/-- The width of a general-purpose register's value in bits (10_state.md R21). -/
def RegVal.width : RegVal → Nat
  | .w8 _ => 8
  | .w16 _ => 16

/-- A general-purpose register's value as a number. -/
def RegVal.toNat : RegVal → Nat
  | .w8 v => v.toNat
  | .w16 v => v.toNat

/-- A value masked to the width of a general-purpose register (10_state.md R11). -/
def RegVal.put : RegVal → Int → RegVal
  | .w8 _, v => .w8 (BitVec.ofInt 8 v)
  | .w16 _, v => .w16 (BitVec.ofInt 16 v)

/-- The entry of `P_GPRS` a register is: its name and its width. -/
def Gpr.decl (g : Gpr) : String × Nat := (g.name, g.val.width)

/-- `P_GPRS` as this machine has it: the names and widths of its general-purpose registers. -/
def State.gprDecls (s : State) : List (String × Nat) := s.gprs.map Gpr.decl

/-- Writes a general-purpose register, masked (10_state.md R11). -/
def Gpr.put (g : Gpr) (v : Int) : Gpr := { g with val := g.val.put v }

/-- The width of a register in bits, none for a name outside the closed set (10_state.md R10). -/
def State.regWidth (s : State) : RegName → Option Nat
  | .a => some 8
  | .fr => some 8
  | .ir => some 8
  | .pc => some 16
  | .sp => some 16
  | .fp => some 16
  | .gpr k => (s.gprs[k]?).map (fun g => g.val.width)

/-- `x[r]`: the value of a register, none for a name outside the closed set (10_state.md R12). -/
def State.regRead (s : State) : RegName → Option Nat
  | .a => some s.a.toNat
  | .fr => some s.fr.toNat
  | .ir => some s.ir.toNat
  | .pc => some s.pc.toNat
  | .sp => some s.sp.toNat
  | .fp => some s.fp.toNat
  | .gpr k => (s.gprs[k]?).map (fun g => g.val.toNat)

/-- `x[r] <- v`: stores v masked to the register's width, whatever its sign or size (10_state.md R11). A name outside the
closed set writes nothing. -/
def State.regWrite (s : State) (r : RegName) (v : Int) : State :=
  match r with
  | .a => s.setA (BitVec.ofInt 8 v)
  | .fr => s.setFr (BitVec.ofInt 8 v)
  | .ir => s.setIr (BitVec.ofInt 8 v)
  | .pc => s.setPc (BitVec.ofInt 16 v)
  | .sp => s.setSp (BitVec.ofInt 16 v)
  | .fp => s.setFp (BitVec.ofInt 16 v)
  | .gpr k => s.setGprs (s.gprs.modify k (fun g => g.put v))

/-- Advances PC by a number of bytes, modulo 2^16 (10_state.md R17). -/
def State.advancePc (s : State) (n : Nat) : State := s.setPc (s.pc + BitVec.ofNat 16 n)

/-- Every general-purpose register at 0 (10_state.md R26). -/
def zeroGprs (gs : List Gpr) : List Gpr := gs.map (fun g => g.put 0)

end Sys2Proof.Machine
end

