-- ==== Sys2Proof/Machine/Ops.lean ====
section
/-! DEFINITION. The core's primitives: raising a fault, MemRead and MemWrite, the stack, the interrupt registers, and
taking an interrupt (20_memory.md section 3, 42_stack.md, 60_exceptions.md). -/

namespace Sys2Proof.Machine

/-! ## Raising a fault -/

/-- The result of a core operation: a value, or a raised fault. Either way the state after it. -/
inductive Res (α : Type) where
  /-- The operation ended with a value. -/
  | ok (a : α) (s : State)
  /-- The operation raised a fault: the state holds it in its fault record. -/
  | raised (s : State)
  deriving DecidableEq, Repr

/-- One operation after another; a raised fault ends both (60_exceptions.md R145). -/
def Res.bind {α β : Type} (r : Res α) (f : α → State → Res β) : Res β :=
  match r with
  | .ok a s => f a s
  | .raised s => .raised s

/-- The state an operation leaves. -/
def Res.state {α : Type} : Res α → State
  | .ok _ s => s
  | .raised s => s

/-- `raise F(info)`: the ONE operation that takes a fault (60_exceptions.md R145). It ends the running operation, sets the
fault record, and writes nothing more; what was written stays (R146). The core is then halted (R147). No operation returns
from a fault: only `reset()` clears the record. -/
def State.raise (s : State) {α : Type} (f : Fault) : Res α := .raised (s.setFault (some f))

/-- The code of a fault (60_exceptions.md R140). -/
def Fault.code : Fault → Nat
  | .unmappedAddress _ => 1
  | .deviceFault _ => 2
  | .unknownInstruction _ _ => 3

/-- Whether the core is halted (60_exceptions.md R147). -/
def State.halted (s : State) : Bool := s.fault.isSome

/-! ## The core's memory primitives -/

/-- What the core makes of a bus access (20_memory.md R65, R66): an unmapped address is raised; a device failure is raised
under `halt`, and under `sentinel` it is logged and the access gives the default value (60_exceptions.md R142). -/
def BusResult.settle {α : Type} (dflt : α) : BusResult α → Res α
  | .ok a s => .ok a s
  | .fail (.unmapped addr) s => s.raise (.unmappedAddress addr)
  | .fail (.device r) s =>
    match s.params.policy with
    | .halt => s.raise (.deviceFault r)
    | .sentinel => .ok dflt (s.setDevlog (s.devlog ++ [r]))

/-- `MemRead(a, 1)` (20_memory.md R65). -/
def State.memRead8 (s : State) (addr : Nat) : Res Byte := (s.busRead addr).settle 0#8

/-- `MemRead(a, 2)` (20_memory.md R65). -/
def State.memRead16 (s : State) (addr : Nat) : Res Word := (s.busRead16 addr).settle 0#16

/-- `MemWrite(a, 1, v)` (20_memory.md R66). -/
def State.memWrite8 (s : State) (addr : Nat) (v : Byte) : Res Unit := (s.busWrite addr v).settle ()

/-- `MemWrite(a, 2, v)` (20_memory.md R66). -/
def State.memWrite16 (s : State) (addr : Nat) (v : Word) : Res Unit := (s.busWrite16 addr v).settle ()

/-! ## The stack -/

/-- `Push(v)`: write the word at SP, then SP − 2 modulo 2^16 (42_stack.md R130). -/
def State.push (s : State) (v : Word) : Res Unit :=
  (s.memWrite16 s.sp.toNat v).bind fun _ s1 => .ok () (s1.setSp (s1.sp - 2#16))

/-- `Pop()`: SP + 2 modulo 2^16, then read the word at the new SP (42_stack.md R131). -/
def State.pop (s : State) : Res Word := (s.setSp (s.sp + 2#16)).memRead16 (s.sp + 2#16).toNat

/-! ## The interrupt registers -/

/-- Reads IE, the bus byte at `P_ADDR_IE` (10_state.md R18). -/
def State.readIE (s : State) : Res Byte := s.memRead8 s.params.addrIE.toNat

/-- Writes IE (10_state.md R18). No operation of the core does. -/
def State.writeIE (s : State) (v : Byte) : Res Unit := s.memWrite8 s.params.addrIE.toNat v

/-- Reads IF, the bus byte at `P_ADDR_IF` (10_state.md R18). -/
def State.readIF (s : State) : Res Byte := s.memRead8 s.params.addrIF.toNat

/-- Writes IF (10_state.md R18). -/
def State.writeIF (s : State) (v : Byte) : Res Unit := s.memWrite8 s.params.addrIF.toNat v

/-- The byte with one bit set, `1 << i`. -/
def bitMask (i : Fin 8) : Byte := 1#8 <<< i.val

/-- `IFSet`: the body of `request_interrupt`, a read-modify-write of IF (60_exceptions.md R151). -/
def State.ifSet (s : State) (l : Line) : Res Unit :=
  s.readIF.bind fun v s1 => s1.writeIF (v ||| bitMask l)

/-- `IFClear(line)`: a read-modify-write of IF (60_exceptions.md R153). -/
def State.ifClear (s : State) (l : Line) : Res Unit :=
  s.readIF.bind fun v s1 => s1.writeIF (v &&& ~~~ bitMask l)

/-! ## Taking an interrupt -/

/-- The eight lines in ascending order (60_exceptions.md R155). -/
def allLines : List Line := [0, 1, 2, 3, 4, 5, 6, 7]

/-- The lowest line that is both enabled and pending (60_exceptions.md R154, R155). -/
def lowestLine (ie pend : Byte) : Option Line :=
  allLines.find? (fun l => ie.getLsbD l.val && pend.getLsbD l.val)

/-- The bus address of a line's vector, a natural number with no masking (60_exceptions.md R156). -/
def State.vectorAddr (s : State) (l : Line) : Nat := s.params.vectorBase + 2 * l.val

/-- Taking an interrupt, the ONE operation that does (60_exceptions.md R154, R158): push PC, load PC from the line's vector,
clear the line's IF bit. It saves nothing else, and there is no mode and no mask to change. The spec has no return from
interrupt (R159): the return address stays on the stack, where `State.pop` would find it. -/
def State.takeInterrupt (s : State) (l : Line) : Res Unit :=
  (s.push s.pc).bind fun _ s1 =>
  (s1.memRead16 (s1.vectorAddr l)).bind fun h s2 =>
  (s2.setPc h).ifClear l

end Sys2Proof.Machine
end

