-- ==== Sys2Proof/Machine/Flags.lean ====
section
/-! DEFINITION. The flag computation of the data-movement instructions (10_state.md R14, R15; 41_load.md R121). -/

namespace Sys2Proof.Machine

/-- The Z bit that a loaded value sets: the value is exactly 0 (41_load.md R121). -/
def zeroBit (p : Params) (v : Byte) : Byte := if v = 0#8 then bitMask p.flagZ else 0#8

/-- The N bit that a loaded value sets: bit 7 of the value is 1 (41_load.md R121). -/
def negativeBit (p : Params) (v : Byte) : Byte := if v.getLsbD 7 then bitMask p.flagN else 0#8

/-- FR after a value is loaded into the accumulator: Z and N are ORed in, nothing is cleared (10_state.md R15,
41_load.md R121). -/
def loadFlags (p : Params) (v fr : Byte) : Byte := fr ||| zeroBit p v ||| negativeBit p v

end Sys2Proof.Machine
end

