-- ==== Sys2Proof/Machine/Load.lean ====
section
/-! DEFINITION. The meanings of the LDA family (41_load.md). -/

namespace Sys2Proof.Machine

/-- LDA_IMM (41_load.md R120): A takes the immediate, FR the flags of it. The operand is `Fetch8`'s value: `cycle` reads it
through `State.fetchOperand` right before this meaning runs, in the order R120 gives, so PC already stands behind the
instruction here (entry 4). -/
def execLdaImm (imm : Byte) (s : State) : Host.Outcome State Fault Refusal :=
  .next ((s.setA imm).setFr (loadFlags s.params imm s.fr))

end Sys2Proof.Machine
end

