-- ==== Sys2Proof/Machine/Dispatch.lean ====
section
/-! DEFINITION. The dispatch of an instruction to its meaning (30_encoding.md R82, 40_cycle.md R105). -/

namespace Sys2Proof.Machine

-- The execute function of each dispatch-table entry, one arm per constructor of Instr.
def exec (i : Instr) (s : State) : Host.Outcome State Fault Refusal :=
  match i with
  | .ldaImm imm => Sys2Proof.Machine.execLdaImm imm s

end Sys2Proof.Machine
end

