-- ==== Sys2Proof/Machine/Operands.lean ====
section
/-! DEFINITION. The instruction-stream reads and the operand of each instruction format (40_cycle.md section 1,
30_encoding.md R84, R85). -/

namespace Sys2Proof.Machine

/-- `Fetch8()`: read the byte at PC, then PC + 1 modulo 2^16 (40_cycle.md R100). -/
def State.fetch8 (s : State) : Res Byte :=
  (s.memRead8 s.pc.toNat).bind fun v s1 => .ok v (s1.advancePc 1)

/-- `Fetch16()`: read the little-endian word at PC, then PC + 2 modulo 2^16 (40_cycle.md R102). -/
def State.fetch16 (s : State) : Res Word :=
  (s.memRead16 s.pc.toNat).bind fun v s1 => .ok v (s1.advancePc 2)

/-- `Peek8()`: read the byte at PC and leave PC (40_cycle.md R103). -/
def State.peek8 (s : State) : Res Byte := s.memRead8 s.pc.toNat

/-- `fetch_instruction()`: fetch the opcode byte into IR (40_cycle.md R104). -/
def State.fetchInstruction (s : State) : Res Byte :=
  s.fetch8.bind fun op s1 => .ok op (s1.setIr op)

/-- The operand of a format, read through the fetch primitives only (40_cycle.md R105 clause 1, 30_encoding.md R84):
nothing, an 8-bit immediate, or a 16-bit immediate. -/
def State.fetchOperand (s : State) : (f : Format) → Res (OperandOf f)
  | .op => .ok () s
  | .i8 => s.fetch8
  | .i16 => s.fetch16

end Sys2Proof.Machine
end

