-- ==== Sys2Proof/Machine/Cycle.lean ====
section
/-! DEFINITION. The execution cycle (40_cycle.md R101, R105, R106). -/

namespace Sys2Proof.Machine

/-- An operation, then a continuation; a raised fault is a next state (60_exceptions.md R145). -/
def Res.andThen {α : Type} (r : Res α) (f : α → State → Host.Outcome State Fault Refusal) :
    Host.Outcome State Fault Refusal :=
  match r with
  | .ok a s => f a s
  | .raised s => .next s

/-- What the cycle does with a decoded opcode: an opcode with no entry raises UnknownInstruction with the address it was
fetched from (40_cycle.md R106); an entry has its operand fetched and its execute function run (R105). -/
def runEntry (pc0 : Word) (op : Byte) (s : State) : Host.Outcome State Fault Refusal :=
  match decodeOpcode s.params op with
  | none => (s.raise (.unknownInstruction op pc0) : Res Unit).andThen fun _ s1 => .next s1
  | some e => (s.fetchOperand e.mnemonic.format).andThen fun x s1 => exec (e.mnemonic.instr x) s1

/-- `cycle()`, the single instruction step (40_cycle.md R101): refused while halted, else fetch, decode, execute. -/
def cycle (s : State) : Host.Outcome State Fault Refusal :=
  if s.halted then .refused .halted
  else s.fetchInstruction.andThen fun op s1 => runEntry s.pc op s1

end Sys2Proof.Machine
end

