-- ==== Sys2Proof/Machine/HostCalls.lean ====
section
/-! DEFINITION. The interface operations of the host table (00_scope.md section 4): the interrupt controller
(60_exceptions.md section 2), reset (70_reset_and_hazards.md R180), and the bus operations (20_memory.md). -/

namespace Sys2Proof.Machine

/-! ## The interrupt controller -/

/-- A line number checked: 0 to 7, or none (60_exceptions.md R150). -/
def lineOf (i : Int) : Option Line := if h : 0 ≤ i ∧ i ≤ 7 then some ⟨i.toNat, by omega⟩ else none

/-- `handle_interrupts()` of a core that is not halted (60_exceptions.md R154): IE is read first and 0 ends it, IF next and
0 ends it; the lowest line set in both is taken; the result is that line, or none. -/
def State.handleInterrupts (s : State) : Res (Option Line) :=
  s.readIE.bind fun ie s1 =>
  if ie = 0#8 then .ok none s1
  else
    s1.readIF.bind fun pend s2 =>
    if pend = 0#8 then .ok none s2
    else
      match lowestLine ie pend with
      | none => .ok none s2
      | some l => (s2.takeInterrupt l).bind fun _ s3 => .ok (some l) s3

/-- `is_interrupt_requested(line)` of a core that is not halted (60_exceptions.md R152). -/
def State.isInterruptRequested (s : State) (l : Line) : Res Bool :=
  s.readIF.bind fun v s1 => .ok (v.getLsbD l.val) s1

/-! ## Reset -/

/-- `reset()` (70_reset_and_hazards.md R180, 10_state.md R26): registers to their reset values, every mapped device zeroed,
no fault, an empty log. The region list, the parameters and the model's own fields stay (entry 22). -/
def State.doReset (s : State) : State :=
  ((((((((((s.setA 0#8).setFr 0#8).setIr 0#8).setGprs (zeroGprs s.gprs)).setPc s.params.pcReset).setSp
    s.params.spReset).setFp s.params.fpReset).busReset).setFault none).setDevlog [])

/-! ## One host call -/

/-- The call returns a result to the host (entry 11). -/
def State.answer (s : State) (r : HostReply) : Host.Outcome State Fault Refusal := .next (s.setReply (some r))

/-- An operation of the core as a host call: refused while halted, changing nothing (60_exceptions.md R147); a raised fault
returns no value (R145). -/
def State.coreCall (s : State) {α : Type} (body : State → Res α) (reply : α → HostReply) :
    Host.Outcome State Fault Refusal :=
  if s.halted then s.answer (.error .halted)
  else
    match body s with
    | .ok a s1 => s1.answer (reply a)
    | .raised s1 => s1.answer .raised

/-- An interrupt operation with a line argument: Halted is checked first, then BadLine (60_exceptions.md R151 to R153). -/
def State.lineCall (s : State) {α : Type} (line : Int) (body : State → Line → Res α) (reply : α → HostReply) :
    Host.Outcome State Fault Refusal :=
  match lineOf line with
  | none => s.answer (.error (if s.halted then .halted else .badLine))
  | some l => s.coreCall (fun s1 => body s1 l) reply

/-- `cycle()` as a host call (00_scope.md R2): a halted core returns `Halted`. -/
def State.cycleCall (s : State) : Host.Outcome State Fault Refusal :=
  if s.halted then s.answer (.error .halted)
  else
    match cycle s with
    | .next s1 => s1.answer (if s1.halted then .raised else .done)
    | .fault f => .fault f
    | .refused r => .refused r

/-- A host poke (20_memory.md R64): the result, or the failure, which is recorded nowhere and halts nothing. -/
def BusResult.poke {α : Type} (reply : α → HostReply) : BusResult α → Host.Outcome State Fault Refusal
  | .ok a s => s.answer (reply a)
  | .fail f s => s.answer (.failed f)

/-- One interface operation (00_scope.md section 4), run to completion (R1). -/
def hostCall (c : HostCall) (s : State) : Host.Outcome State Fault Refusal :=
  match c with
  | .cycle => s.cycleCall
  | .handleInterrupts => s.coreCall State.handleInterrupts .line
  | .requestInterrupt line => s.lineCall line State.ifSet (fun _ => .done)
  | .isInterruptRequested line => s.lineCall line State.isInterruptRequested .flag
  | .clearInterruptFlag line => s.lineCall line State.ifClear (fun _ => .done)
  | .reset => s.doReset.answer .done
  | .map label device start size remap =>
    match s.busMap label device start size remap with
    | .ok (t, s1) => s1.answer (.token t)
    | .error e => s.answer (.error e)
  | .unmap token => (s.busUnmap token).answer .done
  | .load data addr =>
    match s.busLoad data addr with
    | .ok s1 => s1.answer .done
    | .error e => s.answer (.error e)
  | .read addr => (s.busRead addr).poke .byte
  | .read16 addr => (s.busRead16 addr).poke .word
  | .write addr v => (s.busWrite addr (BitVec.ofInt 8 v)).poke (fun _ => .done)
  | .write16 addr v => (s.busWrite16 addr (BitVec.ofInt 16 v)).poke (fun _ => .done)
  | .byteLength => s.answer (.length s.busByteLength)
  | .inspect addr count => s.answer (.bytes (s.inspect addr count))

/-! ## Building a machine before boot -/

/-- The host makes a device (10_state.md R23, 70_reset_and_hazards.md R182 step 1). It is no interface operation of the
core. A new device's bytes read 0x00 (entry 13). -/
def State.addDevice (s : State) (rom : Bool) (capacity : Nat) : State :=
  s.setDevices (s.devices ++ [{ kind := if rom then .rom false else .ram, capacity := capacity, mem := [] }])

/-- The image of one byte placed in the device an address resolves to, as a load places it (20_memory.md R45, R61): a ROM
takes it, no `accessed` bit changes. -/
def State.placeByte (s : State) (addr : Nat) (b : Byte) : State :=
  match s.resolve addr with
  | none => s
  | some (i, off) =>
    if off < (s.device i).capacity then
      s.setDevice i ((s.device i).withMem ((s.device i).mem.write off b))
    else s

/-- Bytes placed at consecutive 16-bit addresses, the way the instruction stream reads them (30_encoding.md R80). -/
def State.placeBytes : State → Word → List Byte → State
  | s, _, [] => s
  | s, addr, b :: bs => (s.placeByte addr.toNat b).placeBytes (addr + 1#16) bs

end Sys2Proof.Machine
end

