-- ==== Sys2Proof/Machine/Step.lean ====
section
/-! DEFINITION. One step of the machine, and an instruction stored where the step fetches it. -/

namespace Sys2Proof.Machine

/-- One step: the next interface operation of the host, run to completion (00_scope.md R1 to R3). With no call queued the
host calls `cycle()` (entry 5). -/
def step (s : State) : Host.Outcome State Fault Refusal :=
  match s.hostCalls with
  | [] => cycle s
  | c :: cs => hostCall c (s.setHostCalls cs)

/-- The state with an instruction stored at PC, byte by byte, so that the very next step fetches and runs it: no call is
queued and the core is not halted. It stands for the host's load of a program (70_reset_and_hazards.md R182 step 3,
entry 14). -/
def State.withFetchWord (s : State) (nbits w : Nat) : State :=
  ((s.placeBytes s.pc (instrBytes nbits w)).setHostCalls []).setFault none

end Sys2Proof.Machine
end

