-- ==== Sys2Proof/Safety.lean ====
section
/-! DEFINITION. The terms statements are written in: the invariant of the machine, what a running core is, and what a read
leaves. -/

namespace Sys2Proof.Machine

/-! ## The invariant -/

/-- A well-formed device: its bytes are in canonical form, and none lies past its capacity (10_state.md R23). -/
abbrev Device.Wf (d : Device) : Prop := d.mem.wf ∧ ∀ c ∈ d.mem, c.1 < d.capacity

/-- A well-formed region: it refers to a device, is not empty, and its token has been given out (20_memory.md R42, R50). -/
abbrev State.RegionWf (s : State) (r : Region) : Prop :=
  r.device < s.devices.length ∧ r.start ≤ r.last ∧ r.token < s.nextToken

/-- The invariant: the parameters, the devices and the regions are well-formed, and a token names one region alone
(20_memory.md R50). -/
abbrev State.Inv (s : State) : Prop :=
  s.params.wf = true ∧ (∀ d ∈ s.devices, d.Wf) ∧ (∀ r ∈ s.regions, s.RegionWf r) ∧
    s.regions.Pairwise (fun r r' => r.token ≠ r'.token)

/-! ## A running core -/

/-- The next step is one `cycle()` of a core that is not halted (40_cycle.md R101). -/
abbrev State.Running (s : State) : Prop := s.hostCalls = [] ∧ s.fault = none

/-! ## Memory -/

/-- The state a successful read of an address leaves: a ROM it reaches has its `accessed` bit set, nothing else changes
(20_memory.md R43, R69). -/
def State.touchAt (s : State) (addr : Nat) : State :=
  match s.resolve addr with
  | none => s
  | some (i, _) => s.setDevice i (s.device i).touch

/-- An address resolves to a byte of a RAM: its device and its offset, below the capacity (20_memory.md R41). -/
abbrev State.RamByte (s : State) (addr i off : Nat) : Prop :=
  s.resolve addr = some (i, off) ∧ (s.device i).kind = .ram ∧ off < (s.device i).capacity

/-- An address resolves to a word that fits in one RAM (20_memory.md R44, R59). -/
abbrev State.RamWord (s : State) (addr i off : Nat) : Prop :=
  s.resolve addr = some (i, off) ∧ (s.device i).kind = .ram ∧ off + 1 < (s.device i).capacity

/-- An address resolves to an offset of a ROM (20_memory.md R43). -/
abbrev State.RomAt (s : State) (addr i off : Nat) : Prop :=
  s.resolve addr = some (i, off) ∧ (s.device i).isRom = true

/-- Outside a set of device bytes, memory is in `t` as in `s`: every byte read through the bus, and in every device, mapped
or not, every byte, the capacity, and the kind with a ROM's `accessed` bit (10_state.md R23, R25). The set is given by device
and offset. Where an operation also reads, `s` is the state its reads leave (`State.touchAt`). -/
def SameBytesBut (s t : State) (stored : Nat → Nat → Prop) : Prop :=
  (∀ addr, (∀ i off, s.resolve addr = some (i, off) → ¬ stored i off) → t.peek addr = s.peek addr) ∧
  ∀ j, (t.device j).kind = (s.device j).kind ∧ (t.device j).capacity = (s.device j).capacity ∧
    ∀ o, ¬ stored j o → (t.device j).mem.read o = (s.device j).mem.read o

/-! ## Instruction streams -/

/-- The instructions of a byte sequence, decoded one after another from its start, at most so many (30_encoding.md R80). -/
def decodeImage (p : Params) : Nat → List Byte → Option (List Instr)
  | _, [] => some []
  | 0, _ :: _ => none
  | n + 1, b :: bs =>
    match decode p (b :: bs) with
    | .instr i rest => (decodeImage p n rest).map (fun is => i :: is)
    | .unknown _ => none
    | .truncated => none

/-- The byte sequence of a list of instructions. -/
def encodeImage (p : Params) (is : List Instr) : List Byte := is.flatMap (encode p)

/-! ## Stacks, host calls, the cycle cost -/

/-- Pushes the values of a list, first to last. -/
def pushAll (s : State) : List Word → Res Unit
  | [] => .ok () s
  | v :: vs => (s.push v).bind fun _ t => pushAll t vs

/-- Pops so many values, the first popped first in the list. -/
def popAll (s : State) : Nat → Res (List Word)
  | 0 => .ok [] s
  | k + 1 => s.pop.bind fun v t => (popAll t k).bind fun vs u => .ok (v :: vs) u

/-- The operations of the bus that the host calls: available while the core is halted (60_exceptions.md R147). -/
def isBusCall : HostCall → Bool
  | .cycle => false
  | .handleInterrupts => false
  | .requestInterrupt _ => false
  | .isInterruptRequested _ => false
  | .clearInterruptFlag _ => false
  | .reset => false
  | .map _ _ _ _ _ => true
  | .unmap _ => true
  | .load _ _ => true
  | .read _ => true
  | .read16 _ => true
  | .write _ _ => true
  | .write16 _ _ => true
  | .byteLength => true
  | .inspect _ _ => true

/-- The state with another cycle cost of LDA immediate. -/
def withCycleCost (s : State) (n : Nat) : State := { s with params := { s.params with cycLdaImm := n } }

end Sys2Proof.Machine
end

