-- ==== Sys2Proof/Certificates/Slice0/Obligations.lean ====
section
/-! DEFINITION. The statements for the provers, each from the rules of spec/ its docstring names. A statement whose
docstring says "the spec's decision" rests on a decision the spec marks as its own (92_eei_decisions.md). Throughout, an
interface operation runs as the first call of the queue `hostCalls` and its result stands in `reply`, and a raised fault is a
next state with the fault record set: these forms are the model's (entries 5, 7 and 11). -/

open Sys2Proof Sys2Proof.Machine

/-! ## Encoding -/

/-- Sample words of 30_encoding.md R84, R86 written out as bytes, under the test configuration's opcode (the model's
choice for its default machine, entry 19): LDA_IMM with three immediates, and five bytes that decode as unknown
(95_test_vectors.md section 2.7). -/
def Obligations.SampleWordsDecode : Prop :=
  decode Params.tc [0b10101001, 0b01000010] = .instr (.ldaImm 0x42) [] ∧
  decode Params.tc [0b10101001, 0b00000000] = .instr (.ldaImm 0x00) [] ∧
  decode Params.tc [0b10101001, 0b11111111, 0x77] = .instr (.ldaImm 0xFF) [0x77] ∧
  decode Params.tc [0xA8, 0x42] = .unknown 0xA8 ∧
  decode Params.tc [0x29, 0x42] = .unknown 0x29 ∧
  decode Params.tc [0x00] = .unknown 0x00 ∧
  decode Params.tc [0xFF, 0xA9] = .unknown 0xFF

/-- Decode and encode agree, in both directions and for every parameter value: a byte sequence decodes to an instruction
exactly when it starts with that instruction's bytes (30_encoding.md R80, R81, R84). -/
def Obligations.DecodeIffEncoded : Prop :=
  ∀ (p : Params) (bs : List Byte) (i : Instr) (rest : List Byte),
    decode p bs = .instr i rest ↔ i.wf = true ∧ bs = encode p i ++ rest

/-- A whole instruction stream: a byte sequence decodes to a list of instructions exactly when it is their encodings one
after another (30_encoding.md R80, R83). -/
def Obligations.InstructionStreamsRoundTrip : Prop :=
  ∀ (p : Params) (is : List Instr) (bs : List Byte),
    decodeImage p is.length bs = some is ↔ bs = encodeImage p is

/-- Every byte but the opcode of LDA_IMM is unknown, and the operand bytes have no say in it (30_encoding.md R81, R87,
R88). -/
def Obligations.OtherOpcodesAreUnknown : Prop :=
  ∀ (p : Params) (op : Byte) (rest : List Byte),
    (decode p (op :: rest) = .unknown op ↔ op ≠ p.opcLdaImm) ∧
    (∀ op', decode p (op :: rest) = .unknown op' → op' = op) ∧
    (decodeOpcode p op = none ↔ op ≠ p.opcLdaImm)

/-- The dispatch table has distinct opcodes and sizes of at least 1, and an entry's size is the number of bytes of its
instructions' encodings (30_encoding.md R82, R83; the distinctness is the spec's decision D29). -/
def Obligations.DispatchTableFitsEncoding : Prop :=
  ∀ p : Params, tableWf (dispatchTable p) = true ∧
    ∀ i : Instr, ∃ e op operands, encode p i = op :: operands ∧ decodeOpcode p op = some e ∧
      e.mnemonic = i.mnemonic ∧ 1 ≤ e.size ∧ (encode p i).length = e.size

/-! ## Registers -/

/-- Every write to a register of the closed set stores the written integer masked to the register's width
(10_state.md R11). -/
def Obligations.RegisterWritesAreMasked : Prop :=
  ∀ (s : State) (r : RegName) (w : Nat) (v : Int), s.regWidth r = some w →
    (s.regWrite r v).regRead r = some (v % (2 ^ w : Nat)).toNat

/-- A register write changes no other register, no register's width or name, and nothing outside the register file
(10_state.md R10, R12). -/
def Obligations.RegisterWriteFrame : Prop :=
  ∀ (s : State) (r : RegName) (v : Int),
    (∀ r', r' ≠ r → (s.regWrite r v).regRead r' = s.regRead r') ∧
    (∀ r', (s.regWrite r v).regWidth r' = s.regWidth r') ∧
    (s.regWrite r v).gprDecls = s.gprDecls ∧
    ∃ a fr ir pc sp fp gprs,
      s.regWrite r v = { s with a := a, fr := fr, ir := ir, pc := pc, sp := sp, fp := fp, gprs := gprs }

/-- The steps of PC and SP are masked register writes: they wrap modulo 2^16 (10_state.md R17, R19; 40_cycle.md R107). -/
def Obligations.CounterStepsAreMaskedWrites : Prop :=
  ∀ s : State,
    s.advancePc 1 = s.regWrite .pc (s.pc.toNat + 1) ∧
    s.advancePc 2 = s.regWrite .pc (s.pc.toNat + 2) ∧
    s.setSp (s.sp - 2#16) = s.regWrite .sp (s.sp.toNat - 2) ∧
    s.setSp (s.sp + 2#16) = s.regWrite .sp (s.sp.toNat + 2)

/-! ## LDA immediate -/

/-- LDA_IMM runs from every state: A takes the immediate; Z is ORed in when it is 0, N when its bit 7 is 1, and no bit of
FR is cleared; nothing else changes, no byte of memory either (41_load.md R120, R121; 40_cycle.md R105). That `exec` runs after
the operand fetch, so that it does not move PC, and does not look at the fault record is the model's reading (entry 4). -/
def Obligations.LdaImmLoadsAndOrsFlags : Prop :=
  ∀ (imm : Byte) (s : State), ∃ t, exec (.ldaImm imm) s = .next t ∧
    t.a = imm ∧
    (∀ k : Fin 8, t.fr.getLsbD k.val =
      (s.fr.getLsbD k.val || (decide (k = s.params.flagZ) && decide (imm = 0#8)) ||
        (decide (k = s.params.flagN) && imm.getLsbD 7))) ∧
    t = { s with a := t.a, fr := t.fr } ∧
    ∀ addr, t.peek addr = s.peek addr

/-- One cycle on LDA_IMM in readable memory (41_load.md R120, 40_cycle.md R101): A, FR, IR and PC as the rules say, PC
wrapping modulo 2^16, every byte of memory and everything else unchanged, but for the `accessed` bits of the ROMs the two
fetches read. -/
def Obligations.LdaImmCycle : Prop :=
  ∀ (s : State) (v : Byte), s.Running → s.peek s.pc.toNat = some s.params.opcLdaImm →
    s.peek (s.pc + 1#16).toNat = some v →
    ∃ t, step s = .next t ∧ t.a = v ∧ t.ir = s.params.opcLdaImm ∧ t.pc = s.pc + 2#16 ∧
      (∀ k : Fin 8, t.fr.getLsbD k.val =
        (s.fr.getLsbD k.val || (decide (k = s.params.flagZ) && decide (v = 0#8)) ||
          (decide (k = s.params.flagN) && v.getLsbD 7))) ∧
      (∀ addr, t.peek addr = s.peek addr) ∧
      t = { (s.touchAt s.pc.toNat).touchAt (s.pc + 1#16).toNat with a := t.a, fr := t.fr, ir := t.ir, pc := t.pc }

/-! ## Fetch and cycle -/

/-- A step of a running core whose bytes at PC decode to a well-formed instruction is that instruction's meaning on the
state after the fetch: PC behind the instruction, IR its opcode byte, the ROMs read marked as accessed
(40_cycle.md R101, R104, R105). R101 and R105 let the execute function fetch its operand; that the operand is fetched before
`exec`, which starts with PC behind the instruction, is the model's reading of them (entry 4). -/
def Obligations.StepRunsDecodedInstruction : Prop :=
  ∀ (s : State) (op b : Byte) (i : Instr), s.Running →
    s.peek s.pc.toNat = some op → s.peek (s.pc + 1#16).toNat = some b →
    decode s.params [op, b] = .instr i [] → i.wf = true →
    step s = exec i ((((s.touchAt s.pc.toNat).touchAt (s.pc + 1#16).toNat).setPc (s.pc + 2#16)).setIr op)

/-- An opcode with no dispatch entry: IR holds it, PC is one past it, UnknownInstruction with the opcode and its address
is recorded, nothing else changes (40_cycle.md R106, 60_exceptions.md R143; the halt is the spec's decision D10). -/
def Obligations.UnknownOpcodeRaises : Prop :=
  ∀ (s : State) (op : Byte), s.Running → s.peek s.pc.toNat = some op → op ≠ s.params.opcLdaImm →
    step s = .next { s.touchAt s.pc.toNat with
      ir := op, pc := s.pc + 1#16, fault := some (.unknownInstruction op s.pc) }

/-- A fault on the opcode fetch leaves everything but the fault record; under `sentinel` a device failure gives opcode
0x00 and is logged (40_cycle.md R100, R104; 60_exceptions.md R146; the surviving state is the spec's decision D12). -/
def Obligations.OpcodeFetchFaults : Prop :=
  ∀ s : State, s.Running →
    (s.resolve s.pc.toNat = none →
      step s = .next { s with fault := some (.unmappedAddress s.pc.toNat) }) ∧
    ∀ i off, s.resolve s.pc.toNat = some (i, off) → (s.device i).capacity ≤ off →
      (s.params.policy = .halt → step s = .next { s with fault := some (.deviceFault
        { addr := s.pc.toNat, info := { offset := off, width := .byte, dir := .read } }) }) ∧
      (s.params.policy = .sentinel → s.params.opcLdaImm ≠ 0#8 →
        step s = .next { s with
          ir := 0#8, pc := s.pc + 1#16, fault := some (.unknownInstruction 0#8 s.pc),
          devlog := s.devlog ++
            [{ addr := s.pc.toNat, info := { offset := off, width := .byte, dir := .read } }] })

/-- A fault on LDA_IMM's operand fetch: A and FR unchanged, IR the opcode, PC one past it; under `sentinel` a device
failure gives operand 0x00 and the instruction runs (41_load.md R120 faults, 40_cycle.md R109; the surviving state is the
spec's decision D12). -/
def Obligations.OperandFetchFaults : Prop :=
  ∀ s : State, s.Running → s.peek s.pc.toNat = some s.params.opcLdaImm →
    (s.resolve (s.pc + 1#16).toNat = none →
      step s = .next { s.touchAt s.pc.toNat with
        ir := s.params.opcLdaImm, pc := s.pc + 1#16, fault := some (.unmappedAddress (s.pc + 1#16).toNat) }) ∧
    ∀ i off, s.resolve (s.pc + 1#16).toNat = some (i, off) → (s.device i).capacity ≤ off →
      (s.params.policy = .halt →
        step s = .next { s.touchAt s.pc.toNat with
          ir := s.params.opcLdaImm, pc := s.pc + 1#16,
          fault := some (.deviceFault
            { addr := (s.pc + 1#16).toNat, info := { offset := off, width := .byte, dir := .read } }) }) ∧
      (s.params.policy = .sentinel →
        step s = .next { s.touchAt s.pc.toNat with
          a := 0#8, fr := s.fr ||| (1#8 <<< s.params.flagZ.val), ir := s.params.opcLdaImm, pc := s.pc + 2#16,
          devlog := s.devlog ++
            [{ addr := (s.pc + 1#16).toNat, info := { offset := off, width := .byte, dir := .read } }] })

/-- `Fetch16` and `Peek8`: the little-endian word at PC with PC + 2, its high byte from the device that PC resolves to;
the byte at PC with PC unchanged; an unmapped PC is raised with PC unchanged (40_cycle.md R102, R103). -/
def Obligations.WordFetchAndPeek : Prop :=
  ∀ s : State,
    (∀ i off, s.resolve s.pc.toNat = some (i, off) → off + 1 < (s.device i).capacity →
      ∃ t, s.fetch16 = .ok (((s.device i).mem.read (off + 1)).zeroExtend 16 <<< 8 |||
          ((s.device i).mem.read off).zeroExtend 16) t ∧
        t = { s.touchAt s.pc.toNat with pc := s.pc + 2#16 } ∧ ∀ addr, t.peek addr = s.peek addr) ∧
    (∀ b, s.peek s.pc.toNat = some b → s.peek8 = .ok b (s.touchAt s.pc.toNat)) ∧
    (s.resolve s.pc.toNat = none →
      s.fetch16 = .raised { s with fault := some (.unmappedAddress s.pc.toNat) } ∧
      s.peek8 = .raised { s with fault := some (.unmappedAddress s.pc.toNat) })

/-! ## The bus -/

/-- `resolve` answers for the first region, from the front, that contains the address, with the offset from its start when
`remap` is true and the address itself when it is false; it fails exactly when no region contains the address
(20_memory.md R53, R54). -/
def Obligations.ResolveTakesFirstRegion : Prop :=
  ∀ (s : State) (addr : Nat),
    (∀ i off, s.resolve addr = some (i, off) ↔
      ∃ front r back, s.regions = front ++ r :: back ∧ (r.start ≤ addr ∧ addr ≤ r.last) ∧
        (∀ r' ∈ front, ¬(r'.start ≤ addr ∧ addr ≤ r'.last)) ∧ i = r.device ∧
        off = if r.remap then addr - r.start else addr) ∧
    (s.resolve addr = none ↔ ∀ r ∈ s.regions, ¬(r.start ≤ addr ∧ addr ≤ r.last))

/-- `bus.map` puts the new region in front: inside it every address resolves to the new device, outside it as before; the
token is the next fresh one, by the model's counter (entry 12), and size 0 is refused (20_memory.md R50; the refusal is the
spec's decision D26). -/
def Obligations.MapShadowsEarlierRegions : Prop :=
  ∀ (s : State) (label : String) (d start size : Nat) (remap : Bool),
    (size = 0 → s.busMap label d start size remap = .error .badSize) ∧
    (size ≠ 0 → d < s.devices.length → ∃ t, s.busMap label d start size remap = .ok (s.nextToken, t) ∧
      (∀ addr, start ≤ addr → addr < start + size →
        t.resolve addr = some (d, if remap then addr - start else addr)) ∧
      (∀ addr, ¬(start ≤ addr ∧ addr < start + size) → t.resolve addr = s.resolve addr) ∧
      (∃ r, t.regions = r :: s.regions ∧ r.token = s.nextToken) ∧
      t = { s with regions := t.regions, nextToken := s.nextToken + 1 })

/-- `bus.unmap` removes the region its token names, wherever it stands, and no other: the others keep their order, a second
unmap of the token changes nothing, and nothing but the list changes. A token of no region changes nothing, and after a map
the list is as before it (20_memory.md R51; a token of no region is the spec's decision D26). -/
def Obligations.UnmapRemovesItsRegion : Prop :=
  ∀ s : State, s.Inv →
    (∀ r ∈ s.regions, ∃ front back, s.regions = front ++ r :: back ∧
      s.busUnmap r.token = { s with regions := front ++ back } ∧ r ∉ front ++ back ∧
      (s.busUnmap r.token).busUnmap r.token = s.busUnmap r.token) ∧
    (∀ tok, (∀ r ∈ s.regions, r.token ≠ tok) → s.busUnmap tok = s) ∧
    ∀ (t : State) (label : String) (d start size tok : Nat) (remap : Bool),
      s.busMap label d start size remap = .ok (tok, t) →
      (t.busUnmap tok).regions = s.regions ∧ t.busUnmap tok = { t with regions := (t.busUnmap tok).regions }

/-- `bus.byte_length()` is the highest `end` plus one, and 0 on an empty list (20_memory.md R52; the 0 is the spec's
decision D26). -/
def Obligations.ByteLengthIsHighestEnd : Prop :=
  ∀ s : State,
    (∀ r ∈ s.regions, r.last < s.busByteLength) ∧
    (s.regions = [] → s.busByteLength = 0) ∧
    (s.regions ≠ [] → ∃ r ∈ s.regions, s.busByteLength = r.last + 1)

/-! ## Memory accesses -/

/-- A byte written to RAM reads back, every other byte reads as before, and nothing but the device changes
(20_memory.md R41, R57, R66). -/
def Obligations.ByteWriteThenRead : Prop :=
  ∀ (s : State) (addr i off : Nat) (v : Byte), s.RamByte addr i off →
    ∃ t, s.memWrite8 addr v = .ok () t ∧ t.memRead8 addr = .ok v t ∧ t.peek addr = some v ∧
      SameBytesBut s t (fun j o => j = i ∧ o = off) ∧ t = { s with devices := t.devices }

/-- A word written to RAM lies little-endian, its low byte at the lower address, and reads back; every other byte reads as
before, and nothing but the device changes (20_memory.md R44, R58, R67). -/
def Obligations.WordWriteIsLittleEndian : Prop :=
  ∀ (s : State) (addr i off : Nat) (w : Word), s.RamWord addr i off →
    ∃ t, s.memWrite16 addr w = .ok () t ∧ t.memRead16 addr = .ok w t ∧
      t.peek addr = some (BitVec.ofNat 8 (w.toNat % 256)) ∧
      (s.resolve (addr + 1) = some (i, off + 1) → t.peek (addr + 1) = some (BitVec.ofNat 8 (w.toNat / 256))) ∧
      SameBytesBut s t (fun j o => j = i ∧ (o = off ∨ o = off + 1)) ∧ t = { s with devices := t.devices }

/-- A word read stays in the device its first address resolves to, whatever the next address resolves to; where the word
does not fit it is a DeviceFault of width 2, raised under `halt`, and under `sentinel` read as 0 and logged
(20_memory.md R44, R56, R59, R65; 60_exceptions.md R142; the device edge is the spec's decision D13). -/
def Obligations.WordReadStaysInOneDevice : Prop :=
  ∀ (s : State) (addr i off : Nat), s.resolve addr = some (i, off) →
    (off + 1 < (s.device i).capacity → ∃ t,
      s.memRead16 addr = .ok (((s.device i).mem.read (off + 1)).zeroExtend 16 <<< 8 |||
        ((s.device i).mem.read off).zeroExtend 16) t ∧
      (∀ addr', t.peek addr' = s.peek addr') ∧ t = s.touchAt addr) ∧
    ((s.device i).capacity ≤ off + 1 → s.params.policy = .halt →
      s.memRead16 addr = .raised { s with fault := some (.deviceFault
        { addr := addr, info := { offset := off, width := .word, dir := .read } }) }) ∧
    ((s.device i).capacity ≤ off + 1 → s.params.policy = .sentinel →
      s.memRead16 addr = .ok 0#16 { s with devlog := s.devlog ++
        [{ addr := addr, info := { offset := off, width := .word, dir := .read } }] })

/-- A write to a ROM, of a byte or a word, at any offset and under either policy, never faults and changes no byte: only
that ROM's `accessed` bit is set (60_exceptions.md R144, 20_memory.md R43; that a write sets the bit is the spec's decision
D14). -/
def Obligations.RomWritesNeverFault : Prop :=
  ∀ (s : State) (addr i off : Nat) (v : Byte) (w : Word), s.RomAt addr i off →
    s.memWrite8 addr v = .ok () (s.touchAt addr) ∧ s.memWrite16 addr w = .ok () (s.touchAt addr) ∧
    (s.touchAt addr).device i = { s.device i with kind := .rom true } ∧
    (∀ j, j ≠ i → (s.touchAt addr).device j = s.device j) ∧
    (∀ addr', (s.touchAt addr).peek addr' = s.peek addr') ∧
    s.touchAt addr = { s with devices := (s.touchAt addr).devices }

/-- A RAM word write that does not fit: one free draw says whether the low byte was written, whatever that draw is; no
other byte changes; under `halt` the DeviceFault is raised, under `sentinel` it is logged and the operation goes on
(20_memory.md R44, R66; 60_exceptions.md R142; the draw is the spec's decision D13, its form here the model's, entry 8). -/
def Obligations.FailingWordWriteDrawsLowByte : Prop :=
  ∀ (s : State) (addr i off : Nat) (w : Word), s.resolve addr = some (i, off) → (s.device i).kind = .ram →
    (s.device i).capacity ≤ off + 1 →
    ∃ u, u = { s with devices := u.devices, draws := s.draws + 1 } ∧
      SameBytesBut s u (fun j o => j = i ∧ o = off ∧ off < (s.device i).capacity) ∧
      (∀ addr', s.resolve addr' = some (i, off) → off < (s.device i).capacity →
        u.peek addr' = if Config.wordWriteDraw s.draws then some (BitVec.ofNat 8 (w.toNat % 256)) else s.peek addr') ∧
      (s.params.policy = .halt → s.memWrite16 addr w = .raised { u with fault := some (.deviceFault
        { addr := addr, info := { offset := off, width := .word, dir := .write } }) }) ∧
      (s.params.policy = .sentinel → s.memWrite16 addr w = .ok () { u with devlog := s.devlog ++
        [{ addr := addr, info := { offset := off, width := .word, dir := .write } }] })

/-- The addresses the core forms are PC, SP and those of IE and IF, each below 2^16, and the vectors' addresses: what the host
maps anywhere else changes no result of a cycle or of an interrupt operation (20_memory.md R72; the parameters of IE and IF as
16-bit words are the model's reading, entry 25). -/
def Obligations.CoreFormsOnlyItsAddresses : Prop :=
  ∀ (s : State) (rs : List Region),
    (∀ addr, (addr < 0x10000 ∨ ∃ l : Line, addr = s.params.vectorBase + 2 * l.val) →
      (s.setRegions rs).resolve addr = s.resolve addr) →
    (∀ c cs, s.hostCalls = c :: cs → isBusCall c = false ∧ c ≠ .reset) →
    (∀ t, step s = .next t → step (s.setRegions rs) = .next (t.setRegions rs)) ∧
    ∀ r, step s = .refused r → step (s.setRegions rs) = .refused r

/-- A core access to an address no region contains, read or write, of a byte or a word, raises UnmappedAddress and
changes nothing but the fault record, whatever the policy (60_exceptions.md R141, 20_memory.md R54). -/
def Obligations.UnmappedAccessesRaise : Prop :=
  ∀ (s : State) (addr : Nat) (v : Byte) (w : Word), s.resolve addr = none →
    s.memRead8 addr = .raised { s with fault := some (.unmappedAddress addr) } ∧
    s.memRead16 addr = .raised { s with fault := some (.unmappedAddress addr) } ∧
    s.memWrite8 addr v = .raised { s with fault := some (.unmappedAddress addr) } ∧
    s.memWrite16 addr w = .raised { s with fault := some (.unmappedAddress addr) }

/-- A byte access past the device's capacity, a read of any device or a write of a RAM: raised under `halt`, and under
`sentinel` logged, the read giving 0 and the write dropped (60_exceptions.md R142, 20_memory.md R41, R65, R66; the policy
is the spec's decision D9). -/
def Obligations.ByteDeviceFaultFollowsPolicy : Prop :=
  ∀ (s : State) (addr i off : Nat) (v : Byte), s.resolve addr = some (i, off) → (s.device i).capacity ≤ off →
    (s.params.policy = .halt →
      s.memRead8 addr = .raised { s with fault := some (.deviceFault
        { addr := addr, info := { offset := off, width := .byte, dir := .read } }) } ∧
      ((s.device i).kind = .ram → s.memWrite8 addr v = .raised { s with fault := some (.deviceFault
        { addr := addr, info := { offset := off, width := .byte, dir := .write } }) })) ∧
    (s.params.policy = .sentinel →
      s.memRead8 addr = .ok 0#8 { s with devlog := s.devlog ++
        [{ addr := addr, info := { offset := off, width := .byte, dir := .read } }] } ∧
      ((s.device i).kind = .ram → s.memWrite8 addr v = .ok () { s with devlog := s.devlog ++
        [{ addr := addr, info := { offset := off, width := .byte, dir := .write } }] }))

/-- A host poke, whether it succeeds or fails, always completes, and touches nothing of the core: no register, no fault
record, no log, no region; an unmapped one is returned to the host and changes nothing at all
(20_memory.md R64; the spec's decision D36). What it returns and stores is `HostPokesReadAndStore`. -/
def Obligations.HostPokesTouchNoCore : Prop :=
  ∀ (s : State) (c : HostCall) (addr : Nat) (v : Int),
    (c = .read addr ∨ c = .read16 addr ∨ c = .write addr v ∨ c = .write16 addr v) →
    (∃ t, hostCall c s = .next t ∧
      t = { s with devices := t.devices, draws := t.draws, reply := t.reply }) ∧
    (s.resolve addr = none → hostCall c s = .next { s with reply := some (.failed (.unmapped addr)) })

/-- What a host poke returns and stores. A read returns the byte, or the little-endian word, and leaves what a read leaves. A
write to RAM stores its integer modulo 2^8, or modulo 2^16 as two bytes, low byte first, and nothing else; a write to a ROM
sets its `accessed` bit. An access that does not fit returns the DeviceFault's report and changes nothing, but for the low
byte of a word write, which one free draw decides (20_memory.md R44, R55 to R58, R60, R63, R64; the spec's decisions D36, D37;
that the draw holds for a host poke too is the model's reading, entry 23). -/
def Obligations.HostPokesReadAndStore : Prop :=
  ∀ (s : State) (addr i off : Nat) (v : Int), s.resolve addr = some (i, off) →
    (off < (s.device i).capacity →
      hostCall (.read addr) s = .next { s.touchAt addr with reply := some (.byte ((s.device i).mem.read off)) }) ∧
    (off + 1 < (s.device i).capacity →
      hostCall (.read16 addr) s = .next { s.touchAt addr with
        reply := some (.word (((s.device i).mem.read (off + 1)).zeroExtend 16 <<< 8 |||
          ((s.device i).mem.read off).zeroExtend 16)) }) ∧
    ((s.device i).capacity ≤ off → hostCall (.read addr) s = .next { s with
      reply := some (.failed (.device { addr := addr, info := { offset := off, width := .byte, dir := .read } })) }) ∧
    ((s.device i).capacity ≤ off + 1 → hostCall (.read16 addr) s = .next { s with
      reply := some (.failed (.device { addr := addr, info := { offset := off, width := .word, dir := .read } })) }) ∧
    ((s.device i).isRom = true →
      hostCall (.write addr v) s = .next { s.touchAt addr with reply := some .done } ∧
      hostCall (.write16 addr v) s = .next { s.touchAt addr with reply := some .done }) ∧
    ((s.device i).kind = .ram →
      (off < (s.device i).capacity → ∃ t, hostCall (.write addr v) s = .next t ∧
        (t.device i).mem.read off = BitVec.ofNat 8 (v % 256).toNat ∧
        SameBytesBut s t (fun j o => j = i ∧ o = off) ∧ t = { s with devices := t.devices, reply := some .done }) ∧
      (off + 1 < (s.device i).capacity → ∃ t, hostCall (.write16 addr v) s = .next t ∧
        (t.device i).mem.read off = BitVec.ofNat 8 (v % 256).toNat ∧
        (t.device i).mem.read (off + 1) = BitVec.ofNat 8 (v / 256 % 256).toNat ∧
        SameBytesBut s t (fun j o => j = i ∧ (o = off ∨ o = off + 1)) ∧
        t = { s with devices := t.devices, reply := some .done }) ∧
      ((s.device i).capacity ≤ off → hostCall (.write addr v) s = .next { s with
        reply := some (.failed (.device { addr := addr, info := { offset := off, width := .byte, dir := .write } })) }) ∧
      ((s.device i).capacity ≤ off + 1 → ∃ t, hostCall (.write16 addr v) s = .next t ∧
        (off < (s.device i).capacity → (t.device i).mem.read off =
          if Config.wordWriteDraw s.draws then BitVec.ofNat 8 (v % 256).toNat else (s.device i).mem.read off) ∧
        SameBytesBut s t (fun j o => j = i ∧ o = off ∧ off < (s.device i).capacity) ∧
        t = { s with
          devices := t.devices, draws := s.draws + 1, reply := some (.failed (.device
            { addr := addr, info := { offset := off, width := .word, dir := .write } })) }))

/-- `inspect(a, n)` returns, address by address, the device byte there or `absent`, and changes nothing
(20_memory.md R70; the `absent` mark is the spec's decision D25). -/
def Obligations.InspectHasNoEffect : Prop :=
  ∀ (s : State) (cs : List HostCall) (addr n : Nat), s.hostCalls = .inspect addr n :: cs →
    ∃ bs, step s = .next { s with hostCalls := cs, reply := some (.bytes bs) } ∧ bs.length = n ∧
      (∀ k, k < n → bs[k]? = some (s.peek (addr + k))) ∧
      ∀ a, s.peek a = match s.resolve a with
        | none => none
        | some (i, off) => if off < (s.device i).capacity then some ((s.device i).mem.read off) else none

/-- `bus.load` puts the whole image into the one device its first address resolves to, from the local offset on, and
changes nothing else, no `accessed` bit either; it is refused at an unmapped address, where the image does not fit, and
in an accessed ROM (20_memory.md R45, R48, R61; the refusals are the spec's decisions D14 and D15; which one is reported
when both hold is left free, entry 9). -/
def Obligations.LoadPlacesImage : Prop :=
  ∀ (s : State) (data : List Byte) (addr : Nat),
    (s.resolve addr = none → s.busLoad data addr = .error .loadUnmapped) ∧
    ∀ i off, s.resolve addr = some (i, off) →
      (off + data.length ≤ (s.device i).capacity → (s.device i).romAccessed = false →
        ∃ t, s.busLoad data addr = .ok t ∧
          (∀ addr' o, s.resolve addr' = some (i, o) → off ≤ o → o < off + data.length →
            t.peek addr' = data[o - off]?) ∧
          SameBytesBut s t (fun j o => j = i ∧ off ≤ o ∧ o < off + data.length) ∧
          (t.device i).kind = (s.device i).kind ∧ t = { s with devices := t.devices }) ∧
      ((s.device i).capacity < off + data.length → (s.device i).romAccessed = false →
        s.busLoad data addr = .error .loadOverflow) ∧
      (off + data.length ≤ (s.device i).capacity → (s.device i).romAccessed = true →
        s.busLoad data addr = .error .romLoadRejected) ∧
      ((s.device i).capacity < off + data.length → (s.device i).romAccessed = true →
        s.busLoad data addr = .error .loadOverflow ∨ s.busLoad data addr = .error .romLoadRejected)

/-- A core read of a ROM's byte closes the ROM for loads, and reset opens it again
(20_memory.md R43, R46, R48; the spec's decision D14). -/
def Obligations.RomLoadWindow : Prop :=
  ∀ (s : State) (addr i off : Nat) (b : Byte) (data : List Byte), s.RomAt addr i off → s.peek addr = some b →
    (∃ t, s.memRead8 addr = .ok b t ∧ (t.device i).romAccessed = true ∧ ∀ u, t.busLoad data addr ≠ .ok u) ∧
    (off + data.length ≤ (s.device i).capacity → ∃ u, s.doReset.busLoad data addr = .ok u)

/-! ## The stack -/

/-- `Push` onto RAM: the word little-endian at SP, then SP − 2 modulo 2^16; every other byte and everything else unchanged.
Onto a ROM: the word is dropped without a fault and the ROM is marked as accessed, SP still drops by 2 (42_stack.md R130,
20_memory.md R43). -/
def Obligations.PushStoresWordAtSp : Prop :=
  ∀ (s : State) (v : Word) (i off : Nat),
    (s.RamWord s.sp.toNat i off → ∃ t, s.push v = .ok () t ∧ t.sp = s.sp - 2#16 ∧
      t.memRead16 s.sp.toNat = .ok v t ∧ t.peek s.sp.toNat = some (BitVec.ofNat 8 (v.toNat % 256)) ∧
      SameBytesBut s t (fun j o => j = i ∧ (o = off ∨ o = off + 1)) ∧
      t = { s with sp := t.sp, devices := t.devices }) ∧
    (s.RomAt s.sp.toNat i off → ∃ t, s.push v = .ok () t ∧ t.sp = s.sp - 2#16 ∧
      (∀ addr, t.peek addr = s.peek addr) ∧ t = { s.touchAt s.sp.toNat with sp := t.sp })

/-- `Pop`: SP + 2 modulo 2^16, then the word at the new SP; no byte changes (42_stack.md R131). -/
def Obligations.PopReadsWordAboveSp : Prop :=
  ∀ (s : State) (i off : Nat), s.resolve (s.sp + 2#16).toNat = some (i, off) → off + 1 < (s.device i).capacity →
    ∃ t, s.pop = .ok (((s.device i).mem.read (off + 1)).zeroExtend 16 <<< 8 |||
        ((s.device i).mem.read off).zeroExtend 16) t ∧
      t.sp = s.sp + 2#16 ∧ (∀ addr, t.peek addr = s.peek addr) ∧
      t = { s.touchAt (s.sp + 2#16).toNat with sp := t.sp }

/-- A push that raises leaves SP and a pop that raises leaves SP + 2; both leave PC, A, FR, IR and FP
(42_stack.md R130, R131 faults; the surviving state is the spec's decision D12). -/
def Obligations.StackFaultsKeepTheirOrder : Prop :=
  ∀ (s t : State) (v : Word),
    (s.push v = .raised t → t = { s with devices := t.devices, draws := t.draws, fault := t.fault } ∧
      t.fault ≠ none ∧ SameBytesBut s t (fun j o => s.resolve s.sp.toNat = some (j, o))) ∧
    (s.pop = .raised t → t = { s with sp := s.sp + 2#16, fault := t.fault } ∧ t.fault ≠ none)

/-- Stack symmetry: pushes followed by as many pops return the values last in, first out, SP comes back, and every byte
outside the slots reads as before. The k slots at and below SP lie in RAM, each with room for its word, and no two overlap
(42_stack.md R133). -/
def Obligations.StackIsLastInFirstOut : Prop :=
  ∀ (s : State) (vs : List Word) (dev off : Nat → Nat),
    (∀ k, k < vs.length → s.RamWord (s.sp - BitVec.ofNat 16 (2 * k)).toNat (dev k) (off k)) →
    (∀ j k, j < k → k < vs.length → dev j = dev k → off j + 1 < off k ∨ off k + 1 < off j) →
    ∃ t u, pushAll s vs = .ok () t ∧ t.sp = s.sp - BitVec.ofNat 16 (2 * vs.length) ∧
      popAll t vs.length = .ok vs.reverse u ∧ u.sp = s.sp ∧
      SameBytesBut s u (fun j o => ∃ k, k < vs.length ∧ j = dev k ∧ (o = off k ∨ o = off k + 1)) ∧
      u = { s with devices := u.devices }

/-! ## Interrupts -/

/-- `request_interrupt(line)` sets the line's bit of the IF byte and nothing else: no other bit, no other byte, no
register (60_exceptions.md R151, 10_state.md R18). -/
def Obligations.RequestSetsPendingBit : Prop :=
  ∀ (s : State) (cs : List HostCall) (l : Line) (i off : Nat), s.fault = none →
    s.hostCalls = .requestInterrupt (l.val : Int) :: cs → s.RamByte s.params.addrIF.toNat i off →
    ∃ t v w, step s = .next t ∧ s.peek s.params.addrIF.toNat = some v ∧ t.peek s.params.addrIF.toNat = some w ∧
      (∀ k : Line, w.getLsbD k.val = (v.getLsbD k.val || decide (k = l))) ∧
      SameBytesBut s t (fun j o => j = i ∧ o = off) ∧
      t = { s with devices := t.devices, hostCalls := cs, reply := some .done }

/-- `clear_interrupt_flag(line)` clears the line's bit of the IF byte and nothing else (60_exceptions.md R153). -/
def Obligations.ClearClearsPendingBit : Prop :=
  ∀ (s : State) (cs : List HostCall) (l : Line) (i off : Nat), s.fault = none →
    s.hostCalls = .clearInterruptFlag (l.val : Int) :: cs → s.RamByte s.params.addrIF.toNat i off →
    ∃ t v w, step s = .next t ∧ s.peek s.params.addrIF.toNat = some v ∧ t.peek s.params.addrIF.toNat = some w ∧
      (∀ k : Line, w.getLsbD k.val = (v.getLsbD k.val && !decide (k = l))) ∧
      SameBytesBut s t (fun j o => j = i ∧ o = off) ∧
      t = { s with devices := t.devices, hostCalls := cs, reply := some .done }

/-- `is_interrupt_requested(line)` returns the line's bit of IF and writes nothing (60_exceptions.md R152). -/
def Obligations.IsRequestedReportsBit : Prop :=
  ∀ (s : State) (cs : List HostCall) (l : Line) (v : Byte), s.fault = none →
    s.hostCalls = .isInterruptRequested (l.val : Int) :: cs → s.peek s.params.addrIF.toNat = some v →
    ∃ t, step s = .next t ∧ t.reply = some (.flag (v.getLsbD l.val)) ∧ (∀ addr, t.peek addr = s.peek addr) ∧
      t = { s.touchAt s.params.addrIF.toNat with hostCalls := cs, reply := t.reply }

/-- An interrupt operation with a line outside 0 to 7 is refused as `BadLine` and changes nothing
(60_exceptions.md R150; the spec's decision D18). -/
def Obligations.LinesOutsideRangeAreRefused : Prop :=
  ∀ (s : State) (cs : List HostCall) (c : HostCall) (line : Int), s.fault = none → s.hostCalls = c :: cs →
    (c = .requestInterrupt line ∨ c = .isInterruptRequested line ∨ c = .clearInterruptFlag line) →
    (line < 0 ∨ 7 < line) →
    step s = .next { s with hostCalls := cs, reply := some (.error .badLine) }

/-- The line that wins is the lowest-numbered one that is both enabled and pending; none wins exactly when no line is both
(60_exceptions.md R155). -/
def Obligations.LowestLineWins : Prop :=
  ∀ ie pend : Byte,
    (∀ l : Line, lowestLine ie pend = some l ↔
      ie.getLsbD l.val = true ∧ pend.getLsbD l.val = true ∧
        ∀ k : Line, k < l → ¬(ie.getLsbD k.val = true ∧ pend.getLsbD k.val = true)) ∧
    (lowestLine ie pend = none ↔ ie &&& pend = 0#8)

/-- `handle_interrupts()` dispatches nothing when IE is 0, when IF is 0, or when no line is both enabled and pending: it
returns none and no byte and no register changes; with IE 0 it does not even read IF
(60_exceptions.md R154; the order of the reads is the spec's decision D17). -/
def Obligations.NothingToDispatch : Prop :=
  ∀ (s : State) (cs : List HostCall) (ie : Byte), s.fault = none → s.hostCalls = .handleInterrupts :: cs →
    s.peek s.params.addrIE.toNat = some ie →
    (ie = 0#8 ∨ ∃ pend, s.peek s.params.addrIF.toNat = some pend ∧ ie &&& pend = 0#8) →
    ∃ t, step s = .next t ∧ t.reply = some (.line none) ∧ (∀ addr, t.peek addr = s.peek addr) ∧
      t = { (if ie = 0#8 then s.touchAt s.params.addrIE.toNat
          else (s.touchAt s.params.addrIE.toNat).touchAt s.params.addrIF.toNat) with
        hostCalls := cs, reply := t.reply }

/-- `handle_interrupts()` takes the lowest enabled pending line: PC is pushed, PC takes the line's vector, the line's IF bit
is cleared, the line is returned; every other byte and register is unchanged, and only the ROMs that hold IE or the vector
are marked as accessed. The stack slot, IF and the vector are in place and the stack slot overlaps neither of the others (60_exceptions.md R154, R155, R156, R158). -/
def Obligations.DispatchTakesLowestLine : Prop :=
  ∀ (s : State) (cs : List HostCall) (ie pend : Byte) (l : Line) (fi fo si so vi vo : Nat), s.fault = none →
    s.hostCalls = .handleInterrupts :: cs →
    s.peek s.params.addrIE.toNat = some ie → s.peek s.params.addrIF.toNat = some pend →
    ie.getLsbD l.val = true → pend.getLsbD l.val = true →
    (∀ k : Line, k < l → ¬(ie.getLsbD k.val = true ∧ pend.getLsbD k.val = true)) →
    s.RamByte s.params.addrIF.toNat fi fo → s.RamWord s.sp.toNat si so →
    s.resolve (s.params.vectorBase + 2 * l.val) = some (vi, vo) → vo + 1 < (s.device vi).capacity →
    (fi = si → fo < so ∨ so + 1 < fo) → (vi = si → vo + 1 < so ∨ so + 1 < vo) →
    ∃ t w, step s = .next t ∧ t.reply = some (.line (some l)) ∧
      t.pc = (((s.device vi).mem.read (vo + 1)).zeroExtend 16 <<< 8 ||| ((s.device vi).mem.read vo).zeroExtend 16) ∧
      t.sp = s.sp - 2#16 ∧ t.memRead16 s.sp.toNat = .ok s.pc t ∧
      t.peek s.params.addrIF.toNat = some w ∧ (∀ k : Line, w.getLsbD k.val = (pend.getLsbD k.val && !decide (k = l))) ∧
      SameBytesBut ((s.touchAt s.params.addrIE.toNat).touchAt (s.params.vectorBase + 2 * l.val)) t
        (fun j o => (j = si ∧ (o = so ∨ o = so + 1)) ∨ (j = fi ∧ o = fo)) ∧
      t = { s with pc := t.pc, sp := t.sp, devices := t.devices, hostCalls := cs, reply := t.reply }

/-- A dispatch whose vector is unmapped: the push stays done, PC and IF are unchanged, the fault is recorded and no value is
returned (60_exceptions.md R146, R154; the surviving state is the spec's decision D12). -/
def Obligations.DispatchVectorFault : Prop :=
  ∀ (s : State) (cs : List HostCall) (ie pend : Byte) (l : Line) (si so : Nat), s.fault = none →
    s.hostCalls = .handleInterrupts :: cs →
    s.peek s.params.addrIE.toNat = some ie → s.peek s.params.addrIF.toNat = some pend →
    ie.getLsbD l.val = true → pend.getLsbD l.val = true →
    (∀ k : Line, k < l → ¬(ie.getLsbD k.val = true ∧ pend.getLsbD k.val = true)) →
    s.RamWord s.sp.toNat si so → s.resolve (s.params.vectorBase + 2 * l.val) = none →
    ∃ t, step s = .next t ∧ t.pc = s.pc ∧ t.sp = s.sp - 2#16 ∧ t.memRead16 s.sp.toNat = .ok s.pc t ∧
      SameBytesBut ((s.touchAt s.params.addrIE.toNat).touchAt s.params.addrIF.toNat) t
        (fun j o => j = si ∧ (o = so ∨ o = so + 1)) ∧
      t = { s with sp := t.sp, devices := t.devices, hostCalls := cs, reply := some .raised,
                   fault := some (.unmappedAddress (s.params.vectorBase + 2 * l.val)) }

/-- Interrupt entry changes no register but PC and SP: when taking an interrupt ends without a fault, SP is 2 lower, and A, FR,
IR, FP, the general-purpose registers, the parameters and the region list are as before (60_exceptions.md R158; the spec's
decision D19). That the word pushed is PC is `DispatchTakesLowestLine`. -/
def Obligations.InterruptEntryChangesOnlyPcAndSp : Prop :=
  ∀ (s t : State) (l : Line), s.takeInterrupt l = .ok () t →
    t.sp = s.sp - 2#16 ∧
    t = { s with pc := t.pc, sp := t.sp, devices := t.devices, draws := t.draws, devlog := t.devlog }

/-! ## Faults and the halted core -/

/-- A halted core refuses `cycle()` and the four interrupt operations and changes nothing
(60_exceptions.md R147; the spec's decisions D10 and D31; the outcome of a step with no call queued is the model's,
entry 6). -/
def Obligations.HaltedCoreRefuses : Prop :=
  ∀ (s : State), s.fault ≠ none →
    (s.hostCalls = [] → step s = .refused .halted) ∧
    ∀ (c : HostCall) (cs : List HostCall) (line : Int), s.hostCalls = c :: cs →
      (c = .cycle ∨ c = .handleInterrupts ∨ c = .requestInterrupt line ∨ c = .isInterruptRequested line ∨
        c = .clearInterruptFlag line) →
      step s = .next { s with hostCalls := cs, reply := some (.error .halted) }

/-- A halt leaves the host's bus operations as they are: each does, whatever the fault record holds, what it does with none,
and keeps the record (60_exceptions.md R147; the spec's decision D31). -/
def Obligations.HaltLeavesBusCallsAvailable : Prop :=
  ∀ (s : State) (c : HostCall) (f : Option Fault), isBusCall c = true →
    ∃ t, hostCall c (s.setFault none) = .next t ∧ t.fault = none ∧ hostCall c (s.setFault f) = .next (t.setFault f)

/-- The fault record is sticky: only `reset()` sets it back to none, and nothing overwrites it
(10_state.md R24, 60_exceptions.md R147; the spec's decision D10). -/
def Obligations.FaultRecordIsSticky : Prop :=
  ∀ (s t : State) (f : Fault), step s = .next t → s.fault = some f →
    (t.fault = some f ∨ (t.fault = none ∧ s.hostCalls.head? = some .reset))

/-- Every step that is not a bare cycle of a halted core answers a next state: a raised fault is a state, not a stop, and
the only refusal is `Halted` (60_exceptions.md R145, R147; the outcomes are the model's choice, entries 6 and 7). -/
def Obligations.StepStopsOnlyWhenHalted : Prop :=
  ∀ s : State,
    (∀ f, step s ≠ .fault f) ∧
    (∀ r, step s = .refused r ↔ r = .halted ∧ s.hostCalls = [] ∧ s.fault ≠ none) ∧
    ((∃ t, step s = .next t) ↔ ¬(s.hostCalls = [] ∧ s.fault ≠ none))

/-- The policy decides what a DeviceFault does in every step: under `sentinel` none is ever recorded as the fault; under
`halt` the log never grows (60_exceptions.md R142, 10_state.md R24; the spec's decision D9). -/
def Obligations.PolicyDecidesDeviceFaults : Prop :=
  ∀ s t : State, step s = .next t →
    (s.params.policy = .sentinel → (∀ r, s.fault ≠ some (.deviceFault r)) → ∀ r, t.fault ≠ some (.deviceFault r)) ∧
    (s.params.policy = .halt → t.devlog = s.devlog ∨ t.devlog = []) ∧
    (s.hostCalls.head? ≠ some .reset → s.devlog <+: t.devlog)

/-! ## Reset -/

/-- `reset()` always completes and leaves the reset state: every register at its reset value, every byte of every mapped
device 0 and no ROM of them accessed, unmapped devices untouched, no fault, an empty log, the region list and the
parameters unchanged (70_reset_and_hazards.md R180, 10_state.md R26, 20_memory.md R46, R62; the spec's decisions D10, D14
and D27; that the model's own fields stay is entry 22). -/
def Obligations.ResetGivesResetState : Prop :=
  ∀ (s : State) (cs : List HostCall), s.hostCalls = .reset :: cs →
    ∃ t, step s = .next t ∧ t.a = 0#8 ∧ t.fr = 0#8 ∧ t.ir = 0#8 ∧
      t.pc = s.params.pcReset ∧ t.sp = s.params.spReset ∧ t.fp = s.params.fpReset ∧
      (∀ k, t.regRead (.gpr k) = (s.regRead (.gpr k)).map (fun _ => 0)) ∧ t.gprDecls = s.gprDecls ∧
      (∀ addr, t.peek addr = (s.peek addr).map (fun _ => 0#8)) ∧
      (∀ r ∈ s.regions, (t.device r.device).romAccessed = false ∧ (t.device r.device).mem = []) ∧
      (∀ i, (∀ r ∈ s.regions, r.device ≠ i) → t.device i = s.device i) ∧
      t.fault = none ∧ t.devlog = [] ∧ t.reply = some .done ∧
      t = { t with params := s.params, regions := s.regions, nextToken := s.nextToken, draws := s.draws,
                   hostCalls := cs }

/-- Reset does not change the region list: every address resolves after it as before (70_reset_and_hazards.md R183). -/
def Obligations.ResetKeepsRegionList : Prop :=
  ∀ (s : State) (cs : List HostCall), s.hostCalls = .reset :: cs →
    ∃ t, step s = .next t ∧ t.regions = s.regions ∧ ∀ addr, t.resolve addr = s.resolve addr

/-- The state after reset meets the invariant, and it is what `reset()` leaves of the test configuration's map (10_state.md
R27, 92_eei_decisions.md D32; which map and parameters it has is the model's choice, entries 1 and 2). -/
def Obligations.ResetStateMeetsInvariant : Prop :=
  State.reset.Inv ∧ State.reset.doReset = State.reset ∧ State.reset.Running

/-- The invariant: well-formed parameters, devices whose bytes are in canonical form and inside the capacity, regions that
refer to devices and whose tokens are distinct. Every step of the machine keeps it, whatever the host calls
(10_state.md R22, R23; 20_memory.md R41, R45, R50). -/
def Obligations.StepKeepsInvariant : Prop :=
  ∀ s t : State, s.Inv → step s = .next t → t.Inv

/-! ## Rules of the whole machine -/

/-- A cycle that ends without a fault ORs the Z and N bits of the loaded value into FR and leaves every other bit; every other
step but `reset()` leaves FR as it was; so no step but `reset()` clears a bit of FR, or changes one that is not Z or N
(10_state.md R15). -/
def Obligations.FlagsAreOnlyOredIn : Prop :=
  ∀ s t : State, step s = .next t →
    ((s.hostCalls = [] ∨ s.hostCalls.head? = some .cycle) → t.fault = none →
      ∀ k : Fin 8, t.fr.getLsbD k.val =
        (s.fr.getLsbD k.val || (decide (k = s.params.flagZ) && decide (t.a = 0#8)) ||
          (decide (k = s.params.flagN) && t.a.getLsbD 7))) ∧
    (¬(s.hostCalls = [] ∨ s.hostCalls.head? = some .cycle) ∨ t.fault ≠ none →
      s.hostCalls.head? ≠ some .reset → t.fr = s.fr) ∧
    (s.hostCalls.head? ≠ some .reset →
      ∀ k : Fin 8, (s.fr.getLsbD k.val = true → t.fr.getLsbD k.val = true) ∧
        (k ≠ s.params.flagZ → k ≠ s.params.flagN → t.fr.getLsbD k.val = s.fr.getLsbD k.val)) ∧
    (s.hostCalls.head? = some .reset → t.fr = 0#8)

/-- A and FR are written only by a cycle that ran LDA immediate to its end, and by `reset()`; such a cycle leaves the opcode
in IR and advances PC by 2 (10_state.md R13, R15; 40_cycle.md R105). -/
def Obligations.OnlyLdaWritesAccumulator : Prop :=
  ∀ s t : State, step s = .next t → (t.a ≠ s.a ∨ t.fr ≠ s.fr) → s.hostCalls.head? ≠ some .reset →
    (s.hostCalls = [] ∨ s.hostCalls.head? = some .cycle) ∧ s.fault = none ∧ t.fault = none ∧
      t.ir = s.params.opcLdaImm ∧ t.pc = s.pc + 2#16

/-- Who writes the other registers: FP and the general-purpose registers only `reset()`; SP only interrupt dispatch and
`reset()`; PC a cycle, by 1 or 2, interrupt dispatch, and `reset()` (10_state.md R17, R19, R20, R21; 40_cycle.md R108). -/
def Obligations.RegisterWriters : Prop :=
  ∀ s t : State, step s = .next t → s.hostCalls.head? ≠ some .reset →
    t.fp = s.fp ∧ t.gprs = s.gprs ∧
    (s.hostCalls.head? ≠ some .handleInterrupts →
      t.sp = s.sp ∧ (t.pc = s.pc ∨
        ((s.hostCalls = [] ∨ s.hostCalls.head? = some .cycle) ∧ (t.pc = s.pc + 1#16 ∨ t.pc = s.pc + 2#16))))

/-- What never changes: the parameters, the names and widths of the general-purpose registers, and the kind and capacity of
every device (30_encoding.md R82, 10_state.md R10, R23; 00_scope.md R4). -/
def Obligations.ShapesNeverChange : Prop :=
  ∀ s t : State, step s = .next t →
    t.params = s.params ∧ t.gprDecls = s.gprDecls ∧
      t.devices.map (fun d => (d.isRom, d.capacity)) = s.devices.map (fun d => (d.isRom, d.capacity))

/-- Only `bus.map` and `bus.unmap` change the region list (10_state.md R22). -/
def Obligations.OnlyMapAndUnmapChangeRegions : Prop :=
  ∀ s t : State, step s = .next t → t.regions ≠ s.regions →
    (∃ label d start size remap cs, s.hostCalls = .map label d start size remap :: cs ∧
      ∃ r, t.regions = r :: s.regions) ∨
    ∃ token cs, s.hostCalls = .unmap token :: cs ∧ t.regions = s.regions.filter (fun r => r.token ≠ token)

/-- The dispatch table carries the cycle cost of LDA immediate, and no result of a step depends on it
(70_reset_and_hazards.md R195). -/
def Obligations.CycleCostChangesNothing : Prop :=
  (∀ p : Params, ∀ e ∈ dispatchTable p, e.cycles = p.cycLdaImm) ∧
  ∀ (s : State) (n : Nat),
    (∀ t, step s = .next t → step (withCycleCost s n) = .next (withCycleCost t n)) ∧
    (∀ r, step s = .refused r → step (withCycleCost s n) = .refused r)
end

