-- ==== Sys2Proof/Laws/Memory.lean ====
section
/-! SUPPORT. The laws of device bytes: read after write, the canonical form, and what each device operation can do. -/

namespace Sys2Proof.Machine

/-! ## Reading after a write -/

@[simp] theorem Memory.read_nil (off : Nat) : Memory.read [] off = 0#8 := rfl

theorem Memory.read_cons (c : Host.Cell) (m : Memory) (off : Nat) :
    Memory.read (c :: m) off = if c.1 = off then c.2 else Memory.read m off := rfl

theorem Memory.read_erase (m : Memory) (off off' : Nat) :
    (m.erase off).read off' = if off' = off then 0#8 else m.read off' := by
  induction m with
  | nil => simp [Memory.erase]
  | cons c m ih =>
    simp only [Memory.erase] at ih ⊢
    by_cases h : c.1 = off
    · simp only [List.filter_cons, h, bne_self_eq_false, Bool.false_eq_true, if_false, ih]
      by_cases h' : off' = off
      · simp [h']
      · simp [h', Memory.read_cons, h, Ne.symm h']
    · simp only [List.filter_cons, bne_iff_ne, ne_eq, h, not_false_eq_true, if_true, Memory.read_cons, ih]
      by_cases h' : off' = off
      · simp [h', h]
      · simp [h']

theorem Memory.read_insert (m : Memory) (off off' : Nat) (b : Byte) (h : ∀ c ∈ m, c.1 ≠ off) :
    (m.insert off b).read off' = if off' = off then b else m.read off' := by
  induction m with
  | nil =>
    by_cases h' : off' = off
    · simp [Memory.insert, Memory.read_cons, h']
    · simp [Memory.insert, Memory.read_cons, h', Ne.symm h']
  | cons c m ih =>
    have hc : c.1 ≠ off := h c (by simp)
    have ih := ih (fun d hd => h d (by simp [hd]))
    unfold Memory.insert
    split
    · by_cases h' : off' = off
      · simp [Memory.read_cons, h']
      · simp [Memory.read_cons, h', Ne.symm h']
    · rw [Memory.read_cons, ih, Memory.read_cons]
      by_cases h' : off' = off
      · simp [h', hc]
      · simp [h']

theorem Memory.erase_ne (m : Memory) (off : Nat) : ∀ c ∈ m.erase off, c.1 ≠ off := by
  intro c hc
  simpa using (List.mem_filter.1 hc).2

/-- Reading after a write: the byte written at its offset, and every other offset as before. -/
theorem Memory.read_write (m : Memory) (off off' : Nat) (b : Byte) :
    (m.write off b).read off' = if off' = off then b else m.read off' := by
  unfold Memory.write
  split
  · next hb => rw [Memory.read_erase, hb]; rfl
  · rw [Memory.read_insert _ _ _ _ (Memory.erase_ne m off), Memory.read_erase]
    by_cases h : off' = off <;> simp [h]

/-- Reading after a sequence of bytes is stored. -/
theorem Memory.read_store (m : Memory) (off off' : Nat) (bs : List Byte) :
    (m.store off bs).read off' =
      if off ≤ off' ∧ off' < off + bs.length then bs.getD (off' - off) 0#8 else m.read off' := by
  induction bs generalizing m off with
  | nil => simp [Memory.store, show ¬(off ≤ off' ∧ off' < off) by omega]
  | cons b bs ih =>
    rw [Memory.store, ih, Memory.read_write]
    by_cases h : off' = off
    · subst h; simp
    · by_cases h2 : off + 1 ≤ off' ∧ off' < off + 1 + bs.length
      · have h3 : off ≤ off' ∧ off' < off + (b :: bs).length := by simp; omega
        obtain ⟨k, hk⟩ : ∃ k, off' - off = k + 1 := ⟨off' - off - 1, by omega⟩
        have hk' : off' - (off + 1) = k := by omega
        rw [if_pos h2, if_pos h3, hk, hk']
        simp
      · have h3 : ¬(off ≤ off' ∧ off' < off + (b :: bs).length) := by simp; omega
        rw [if_neg h2, if_neg h, if_neg h3]

/-! ## The canonical form -/

theorem Memory.wf_nil : Memory.wf [] := ⟨List.Pairwise.nil, by simp⟩

/-- The memories of the state right after reset are in canonical form. -/
theorem State.reset_mem_wf : ∀ d ∈ State.reset.devices, d.mem.wf := by decide

theorem Memory.erase_wf {m : Memory} (h : m.wf) (off : Nat) : (m.erase off).wf :=
  ⟨h.1.filter _, fun c hc => h.2 c (List.mem_of_mem_filter hc)⟩

theorem Memory.mem_insert {m : Memory} {off : Nat} {b : Byte} {c : Host.Cell} :
    c ∈ m.insert off b ↔ c = (off, b) ∨ c ∈ m := by
  induction m with
  | nil => simp [Memory.insert]
  | cons d m ih =>
    unfold Memory.insert
    split
    · simp
    · simp only [List.mem_cons, ih]; tauto

theorem Memory.insert_wf {m : Memory} (h : m.wf) {off : Nat} (hoff : ∀ c ∈ m, c.1 ≠ off) {b : Byte}
    (hb : b ≠ Memory.unlisted) : (m.insert off b).wf := by
  refine ⟨?_, fun c hc => ?_⟩
  · have h1 := h.1
    clear h
    induction m with
    | nil => simp [Memory.insert]
    | cons d m ih =>
      have hd : d.1 ≠ off := hoff d (by simp)
      obtain ⟨hlt, hm⟩ := List.pairwise_cons.1 h1
      unfold Memory.insert
      split
      · next hl =>
        refine List.pairwise_cons.2 ⟨fun c hc => ?_, h1⟩
        rcases List.mem_cons.1 hc with rfl | hc
        · exact hl
        · exact Nat.lt_trans hl (hlt c hc)
      · next hl =>
        refine List.pairwise_cons.2 ⟨fun c hc => ?_, ih (fun c hc => hoff c (by simp [hc])) hm⟩
        rcases Memory.mem_insert.1 hc with rfl | hc
        · show d.1 < off; omega
        · exact hlt c hc
  · rcases Memory.mem_insert.1 hc with rfl | hc
    · exact hb
    · exact h.2 c hc

/-- A write keeps the canonical form. -/
theorem Memory.write_wf {m : Memory} (h : m.wf) (off : Nat) (b : Byte) : (m.write off b).wf := by
  unfold Memory.write
  split
  · exact Memory.erase_wf h off
  · next hb => exact Memory.insert_wf (Memory.erase_wf h off) (Memory.erase_ne m off) hb

/-- Storing a sequence of bytes keeps the canonical form. -/
theorem Memory.store_wf {m : Memory} (h : m.wf) (off : Nat) (bs : List Byte) : (m.store off bs).wf := by
  induction bs generalizing m off with
  | nil => exact h
  | cons b bs ih => exact ih (Memory.write_wf h off b) (off + 1)

/-- An entry of a memory after a write is an entry from before, or stands at the offset written. -/
theorem Memory.mem_write {m : Memory} {off : Nat} {b : Byte} {c : Host.Cell} (h : c ∈ m.write off b) :
    c ∈ m ∨ c.1 = off := by
  unfold Memory.write at h
  split at h
  · exact .inl (List.mem_of_mem_filter h)
  · rcases Memory.mem_insert.1 h with rfl | h
    · exact .inr rfl
    · exact .inl (List.mem_of_mem_filter h)

/-- An entry of a memory after a store is an entry from before, or stands where a byte was stored. -/
theorem Memory.mem_store {m : Memory} {off : Nat} {bs : List Byte} {c : Host.Cell} (h : c ∈ m.store off bs) :
    c ∈ m ∨ (off ≤ c.1 ∧ c.1 < off + bs.length) := by
  induction bs generalizing m off with
  | nil => exact .inl h
  | cons b bs ih =>
    rcases ih h with h | h
    · rcases Memory.mem_write h with h | h
      · exact .inl h
      · exact .inr (by simp; omega)
    · exact .inr (by simp; omega)

/-- Two canonical memories that read alike at every offset are equal: equal memories are equal data. -/
theorem Memory.eq_of_read {m m' : Memory} (h : m.wf) (h' : m'.wf) (hr : ∀ off, m.read off = m'.read off) : m = m' := by
  have low : ∀ {c : Host.Cell} {m : Memory}, Memory.wf (c :: m) → ∀ off, off < c.1 → Memory.read (c :: m) off = 0#8 := by
    intro c m hw off hlt
    have key : ∀ {m : Memory}, (∀ d ∈ m, off < d.1) → Memory.read m off = 0#8 := by
      intro m
      induction m with
      | nil => intro _; rfl
      | cons d m ih =>
        intro hd
        have h1 := hd d (by simp)
        rw [Memory.read_cons, if_neg (by omega)]
        exact ih (fun e he => hd e (by simp [he]))
    refine key (fun d hd => ?_)
    rcases List.mem_cons.1 hd with rfl | hd
    · exact hlt
    · exact Nat.lt_trans hlt ((List.pairwise_cons.1 hw.1).1 d hd)
  have tail : ∀ {c : Host.Cell} {m : Memory}, Memory.wf (c :: m) → m.wf := fun hw =>
    ⟨(List.pairwise_cons.1 hw.1).2, fun d hd => hw.2 d (by simp [hd])⟩
  have past : ∀ {c : Host.Cell} {m : Memory}, Memory.wf (c :: m) → Memory.read m c.1 = 0#8 := by
    intro c m hw
    cases m with
    | nil => rfl
    | cons d m => exact low (tail hw) c.1 ((List.pairwise_cons.1 hw.1).1 d (by simp))
  induction m generalizing m' with
  | nil =>
    cases m' with
    | nil => rfl
    | cons d m' =>
      have := hr d.1
      rw [Memory.read_nil, Memory.read_cons, if_pos rfl] at this
      exact absurd this.symm (h'.2 d (by simp))
  | cons c m ih =>
    cases m' with
    | nil =>
      have := hr c.1
      rw [Memory.read_nil, Memory.read_cons, if_pos rfl] at this
      exact absurd this (h.2 c (by simp))
    | cons d m' =>
      have hcd : c.1 = d.1 := by
        rcases Nat.lt_trichotomy c.1 d.1 with hlt | heq | hlt
        · have := hr c.1
          rw [low h' c.1 hlt, Memory.read_cons, if_pos rfl] at this
          exact absurd this (h.2 c (by simp))
        · exact heq
        · have := hr d.1
          rw [low h d.1 hlt, Memory.read_cons, if_pos rfl] at this
          exact absurd this.symm (h'.2 d (by simp))
      have hv : c.2 = d.2 := by
        have := hr c.1
        rwa [Memory.read_cons, if_pos rfl, Memory.read_cons, if_pos hcd.symm] at this
      have hm : m = m' := by
        refine ih (tail h) (tail h') (fun off => ?_)
        by_cases ho : off = c.1
        · rw [ho, past h, hcd, past h']
        · have := hr off
          rwa [Memory.read_cons, if_neg (fun e => ho e.symm), Memory.read_cons,
            if_neg (fun e => ho (by rw [← e, hcd]))] at this
      rw [hm, Prod.ext hcd hv]

end Sys2Proof.Machine
end

