-- ==== Sys2Proof/Laws/Device.lean ====
section
/-! SUPPORT. What each device operation can do, and that it keeps the device's kind, capacity and well-formedness. -/

namespace Sys2Proof.Machine

/-! ## Kind and capacity -/

@[simp] theorem Device.withMem_kind (d : Device) (m : Memory) : (d.withMem m).kind = d.kind := rfl

@[simp] theorem Device.withMem_capacity (d : Device) (m : Memory) : (d.withMem m).capacity = d.capacity := rfl

@[simp] theorem Device.withMem_mem (d : Device) (m : Memory) : (d.withMem m).mem = m := rfl

@[simp] theorem Device.withMem_isRom (d : Device) (m : Memory) : (d.withMem m).isRom = d.isRom := rfl

@[simp] theorem Device.withMem_romAccessed (d : Device) (m : Memory) : (d.withMem m).romAccessed = d.romAccessed := rfl

@[simp] theorem Device.touch_ram {d : Device} (h : d.kind = .ram) : d.touch = d := by
  simp [Device.touch, h]

@[simp] theorem Device.touch_capacity (d : Device) : d.touch.capacity = d.capacity := by
  unfold Device.touch; split <;> rfl

@[simp] theorem Device.touch_mem (d : Device) : d.touch.mem = d.mem := by
  unfold Device.touch; split <;> rfl

@[simp] theorem Device.touch_isRom (d : Device) : d.touch.isRom = d.isRom := by
  unfold Device.touch; split <;> simp_all [Device.isRom]

@[simp] theorem Device.touch_touch (d : Device) : d.touch.touch = d.touch := by
  cases h : d.kind <;> simp [Device.touch, h]

theorem Device.touch_kind_ram (d : Device) : d.touch.kind = .ram ↔ d.kind = .ram := by
  unfold Device.touch; split <;> simp_all

theorem Device.kind_ram_iff (d : Device) : d.kind = .ram ↔ d.isRom = false := by
  unfold Device.isRom; split <;> simp_all

/-- A device as an operation of the block may leave it: same class (RAM or ROM) and same capacity, and well-formed if it
was (10_state.md R23). -/
def Device.Keeps (d d' : Device) : Prop :=
  d'.isRom = d.isRom ∧ d'.capacity = d.capacity ∧ (d.Wf → d'.Wf)

theorem Device.Keeps.refl (d : Device) : d.Keeps d := ⟨rfl, rfl, id⟩

theorem Device.Keeps.trans {d d' d'' : Device} (h : d.Keeps d') (h' : d'.Keeps d'') : d.Keeps d'' :=
  ⟨h'.1.trans h.1, h'.2.1.trans h.2.1, fun w => h'.2.2 (h.2.2 w)⟩

theorem Device.keeps_touch (d : Device) : d.Keeps d.touch :=
  ⟨d.touch_isRom, d.touch_capacity, by simp [Device.Wf]⟩

theorem Device.keeps_write {d : Device} {off : Nat} (h : off < d.capacity) (b : Byte) :
    d.Keeps (d.withMem (d.mem.write off b)) :=
  ⟨rfl, rfl, fun w => ⟨Memory.write_wf w.1 off b, fun c hc => by
    rcases Memory.mem_write hc with hc | hc
    · exact w.2 c hc
    · simpa [hc] using h⟩⟩

theorem Device.keeps_store {d : Device} {off : Nat} {bs : List Byte} (h : off + bs.length ≤ d.capacity) :
    d.Keeps (d.withMem (d.mem.store off bs)) :=
  ⟨rfl, rfl, fun w => ⟨Memory.store_wf w.1 off bs, fun c hc => by
    rcases Memory.mem_store hc with hc | hc
    · exact w.2 c hc
    · exact Nat.lt_of_lt_of_le hc.2 h⟩⟩

theorem Device.keeps_reset (d : Device) : d.Keeps d.reset := by
  unfold Device.reset
  split <;> refine ⟨by simp_all [Device.isRom], rfl, fun _ => ⟨Memory.wf_nil, by simp⟩⟩

/-! ## What each operation can do -/

/-- Everything `read` can do (20_memory.md R41, R43). -/
theorem Device.read_cases (d : Device) (off : Nat) :
    (off < d.capacity ∧ d.read off = .ok (d.mem.read off) d.touch) ∨
      (d.capacity ≤ off ∧ d.read off = .fail { offset := off, width := .byte, dir := .read } d) := by
  unfold Device.read
  split
  · exact .inl ⟨‹_›, rfl⟩
  · exact .inr ⟨by omega, rfl⟩

/-- Everything `read16` can do (20_memory.md R44). -/
theorem Device.read16_cases (d : Device) (off : Nat) :
    (off + 1 < d.capacity ∧ d.read16 off = .ok (joinBytes (d.mem.read off) (d.mem.read (off + 1))) d.touch) ∨
      (d.capacity ≤ off + 1 ∧ d.read16 off = .fail { offset := off, width := .word, dir := .read } d) := by
  unfold Device.read16
  split
  · exact .inl ⟨‹_›, rfl⟩
  · exact .inr ⟨by omega, rfl⟩

/-- Everything `write` can do (20_memory.md R41, R43). -/
theorem Device.write_cases (d : Device) (off : Nat) (b : Byte) :
    (d.isRom = true ∧ d.write off b = .ok () d.touch) ∨
      (d.kind = .ram ∧ off < d.capacity ∧ d.write off b = .ok () (d.withMem (d.mem.write off b))) ∨
      (d.kind = .ram ∧ d.capacity ≤ off ∧
        d.write off b = .fail { offset := off, width := .byte, dir := .write } d) := by
  unfold Device.write
  split
  · next h => exact .inl ⟨by simp [Device.isRom, h], rfl⟩
  · next h =>
    split
    · exact .inr (.inl ⟨h, ‹_›, rfl⟩)
    · exact .inr (.inr ⟨h, by omega, rfl⟩)

/-- Everything `write16` can do (20_memory.md R44). -/
theorem Device.write16_cases (d : Device) (off : Nat) (w : Word) (low : Bool) :
    (d.isRom = true ∧ d.write16 off w low = .ok () d.touch) ∨
      (d.kind = .ram ∧ off + 1 < d.capacity ∧ d.write16 off w low =
        .ok () (d.withMem ((d.mem.write off (lowByte w)).write (off + 1) (highByte w)))) ∨
      (d.kind = .ram ∧ d.capacity ≤ off + 1 ∧ low = true ∧ off < d.capacity ∧ d.write16 off w low =
        .fail { offset := off, width := .word, dir := .write } (d.withMem (d.mem.write off (lowByte w)))) ∨
      (d.kind = .ram ∧ d.capacity ≤ off + 1 ∧ (low = true → d.capacity ≤ off) ∧ d.write16 off w low =
        .fail { offset := off, width := .word, dir := .write } d) := by
  unfold Device.write16
  split
  · next h => exact .inl ⟨by simp [Device.isRom, h], rfl⟩
  · next h =>
    by_cases h1 : off + 1 < d.capacity
    · exact .inr (.inl ⟨h, h1, by simp [h1]⟩)
    · by_cases h2 : low = true ∧ off < d.capacity
      · exact .inr (.inr (.inl ⟨h, by omega, h2.1, h2.2, by simp [h1, h2]⟩))
      · refine .inr (.inr (.inr ⟨h, by omega, fun hl => ?_, ?_⟩))
        · by_contra hc
          exact h2 ⟨hl, by omega⟩
        · rw [if_neg h1, if_neg (by simpa using h2)]

/-- Everything `load` can do (20_memory.md R45, R48). -/
theorem Device.load_ok_iff (d d' : Device) (data : List Byte) (off : Nat) :
    d.load data off = .ok d' ↔
      off + data.length ≤ d.capacity ∧ d.romAccessed = false ∧ d' = d.withMem (d.mem.store off data) := by
  unfold Device.load
  split
  · simp only [reduceCtorEq, false_iff, not_and]; omega
  · split
    · simp_all
    · next h1 h2 =>
      simp only [Except.ok.injEq]
      exact ⟨fun h => ⟨by omega, by simpa using h2, h.symm⟩, fun h => h.2.2.symm⟩

/-- After a device operation of the bus, whatever it answered, the device has kept its class, capacity and form. -/
theorem Device.read_keeps (d : Device) (off : Nat) :
    (∀ a d', d.read off = .ok a d' → d.Keeps d') ∧ (∀ f d', d.read off = .fail f d' → d.Keeps d') := by
  rcases d.read_cases off with ⟨_, h⟩ | ⟨_, h⟩ <;> rw [h] <;>
    simp [Device.keeps_touch, Device.Keeps.refl]

theorem Device.read16_keeps (d : Device) (off : Nat) :
    (∀ a d', d.read16 off = .ok a d' → d.Keeps d') ∧ (∀ f d', d.read16 off = .fail f d' → d.Keeps d') := by
  rcases d.read16_cases off with ⟨_, h⟩ | ⟨_, h⟩ <;> rw [h] <;>
    simp [Device.keeps_touch, Device.Keeps.refl]

theorem Device.write_keeps (d : Device) (off : Nat) (b : Byte) :
    (∀ a d', d.write off b = .ok a d' → d.Keeps d') ∧ (∀ f d', d.write off b = .fail f d' → d.Keeps d') := by
  rcases d.write_cases off b with ⟨_, h⟩ | ⟨_, hc, h⟩ | ⟨_, _, h⟩ <;> rw [h]
  · simp [Device.keeps_touch]
  · simp [Device.keeps_write hc]
  · simp [Device.Keeps.refl]

theorem Device.write16_keeps (d : Device) (off : Nat) (w : Word) (low : Bool) :
    (∀ a d', d.write16 off w low = .ok a d' → d.Keeps d') ∧
      (∀ f d', d.write16 off w low = .fail f d' → d.Keeps d') := by
  rcases d.write16_cases off w low with ⟨_, h⟩ | ⟨_, hc, h⟩ | ⟨_, _, _, hc, h⟩ | ⟨_, _, _, h⟩ <;> rw [h]
  · simp [Device.keeps_touch]
  · have h1 := Device.keeps_write (d := d) (off := off) (by omega) (lowByte w)
    have h2 := h1.trans (Device.keeps_write (d := d.withMem (d.mem.write off (lowByte w)))
      (off := off + 1) hc (highByte w))
    simp only [DevResult.ok.injEq, reduceCtorEq, false_implies, implies_true, and_true]
    rintro a d' ⟨_, rfl⟩
    exact h2
  · simp [Device.keeps_write hc]
  · simp [Device.Keeps.refl]

end Sys2Proof.Machine
end

