-- ==== Sys2Proof/Laws/State.lean ====
section
/-! SUPPORT. One lemma per field per update of State, so that no proof unfolds a record update. -/

namespace Sys2Proof.Machine

section
variable (s : State)

/-! `setA` -/

@[simp] theorem State.setA_params (v : Byte) : (s.setA v).params = s.params := rfl
@[simp] theorem State.setA_a (v : Byte) : (s.setA v).a = v := rfl
@[simp] theorem State.setA_fr (v : Byte) : (s.setA v).fr = s.fr := rfl
@[simp] theorem State.setA_ir (v : Byte) : (s.setA v).ir = s.ir := rfl
@[simp] theorem State.setA_pc (v : Byte) : (s.setA v).pc = s.pc := rfl
@[simp] theorem State.setA_sp (v : Byte) : (s.setA v).sp = s.sp := rfl
@[simp] theorem State.setA_fp (v : Byte) : (s.setA v).fp = s.fp := rfl
@[simp] theorem State.setA_gprs (v : Byte) : (s.setA v).gprs = s.gprs := rfl
@[simp] theorem State.setA_regions (v : Byte) : (s.setA v).regions = s.regions := rfl
@[simp] theorem State.setA_devices (v : Byte) : (s.setA v).devices = s.devices := rfl
@[simp] theorem State.setA_fault (v : Byte) : (s.setA v).fault = s.fault := rfl
@[simp] theorem State.setA_devlog (v : Byte) : (s.setA v).devlog = s.devlog := rfl
@[simp] theorem State.setA_nextToken (v : Byte) : (s.setA v).nextToken = s.nextToken := rfl
@[simp] theorem State.setA_draws (v : Byte) : (s.setA v).draws = s.draws := rfl
@[simp] theorem State.setA_hostCalls (v : Byte) : (s.setA v).hostCalls = s.hostCalls := rfl
@[simp] theorem State.setA_reply (v : Byte) : (s.setA v).reply = s.reply := rfl

/-! `setFr` -/

@[simp] theorem State.setFr_params (v : Byte) : (s.setFr v).params = s.params := rfl
@[simp] theorem State.setFr_a (v : Byte) : (s.setFr v).a = s.a := rfl
@[simp] theorem State.setFr_fr (v : Byte) : (s.setFr v).fr = v := rfl
@[simp] theorem State.setFr_ir (v : Byte) : (s.setFr v).ir = s.ir := rfl
@[simp] theorem State.setFr_pc (v : Byte) : (s.setFr v).pc = s.pc := rfl
@[simp] theorem State.setFr_sp (v : Byte) : (s.setFr v).sp = s.sp := rfl
@[simp] theorem State.setFr_fp (v : Byte) : (s.setFr v).fp = s.fp := rfl
@[simp] theorem State.setFr_gprs (v : Byte) : (s.setFr v).gprs = s.gprs := rfl
@[simp] theorem State.setFr_regions (v : Byte) : (s.setFr v).regions = s.regions := rfl
@[simp] theorem State.setFr_devices (v : Byte) : (s.setFr v).devices = s.devices := rfl
@[simp] theorem State.setFr_fault (v : Byte) : (s.setFr v).fault = s.fault := rfl
@[simp] theorem State.setFr_devlog (v : Byte) : (s.setFr v).devlog = s.devlog := rfl
@[simp] theorem State.setFr_nextToken (v : Byte) : (s.setFr v).nextToken = s.nextToken := rfl
@[simp] theorem State.setFr_draws (v : Byte) : (s.setFr v).draws = s.draws := rfl
@[simp] theorem State.setFr_hostCalls (v : Byte) : (s.setFr v).hostCalls = s.hostCalls := rfl
@[simp] theorem State.setFr_reply (v : Byte) : (s.setFr v).reply = s.reply := rfl

/-! `setIr` -/

@[simp] theorem State.setIr_params (v : Byte) : (s.setIr v).params = s.params := rfl
@[simp] theorem State.setIr_a (v : Byte) : (s.setIr v).a = s.a := rfl
@[simp] theorem State.setIr_fr (v : Byte) : (s.setIr v).fr = s.fr := rfl
@[simp] theorem State.setIr_ir (v : Byte) : (s.setIr v).ir = v := rfl
@[simp] theorem State.setIr_pc (v : Byte) : (s.setIr v).pc = s.pc := rfl
@[simp] theorem State.setIr_sp (v : Byte) : (s.setIr v).sp = s.sp := rfl
@[simp] theorem State.setIr_fp (v : Byte) : (s.setIr v).fp = s.fp := rfl
@[simp] theorem State.setIr_gprs (v : Byte) : (s.setIr v).gprs = s.gprs := rfl
@[simp] theorem State.setIr_regions (v : Byte) : (s.setIr v).regions = s.regions := rfl
@[simp] theorem State.setIr_devices (v : Byte) : (s.setIr v).devices = s.devices := rfl
@[simp] theorem State.setIr_fault (v : Byte) : (s.setIr v).fault = s.fault := rfl
@[simp] theorem State.setIr_devlog (v : Byte) : (s.setIr v).devlog = s.devlog := rfl
@[simp] theorem State.setIr_nextToken (v : Byte) : (s.setIr v).nextToken = s.nextToken := rfl
@[simp] theorem State.setIr_draws (v : Byte) : (s.setIr v).draws = s.draws := rfl
@[simp] theorem State.setIr_hostCalls (v : Byte) : (s.setIr v).hostCalls = s.hostCalls := rfl
@[simp] theorem State.setIr_reply (v : Byte) : (s.setIr v).reply = s.reply := rfl

/-! `setPc` -/

@[simp] theorem State.setPc_params (v : Word) : (s.setPc v).params = s.params := rfl
@[simp] theorem State.setPc_a (v : Word) : (s.setPc v).a = s.a := rfl
@[simp] theorem State.setPc_fr (v : Word) : (s.setPc v).fr = s.fr := rfl
@[simp] theorem State.setPc_ir (v : Word) : (s.setPc v).ir = s.ir := rfl
@[simp] theorem State.setPc_pc (v : Word) : (s.setPc v).pc = v := rfl
@[simp] theorem State.setPc_sp (v : Word) : (s.setPc v).sp = s.sp := rfl
@[simp] theorem State.setPc_fp (v : Word) : (s.setPc v).fp = s.fp := rfl
@[simp] theorem State.setPc_gprs (v : Word) : (s.setPc v).gprs = s.gprs := rfl
@[simp] theorem State.setPc_regions (v : Word) : (s.setPc v).regions = s.regions := rfl
@[simp] theorem State.setPc_devices (v : Word) : (s.setPc v).devices = s.devices := rfl
@[simp] theorem State.setPc_fault (v : Word) : (s.setPc v).fault = s.fault := rfl
@[simp] theorem State.setPc_devlog (v : Word) : (s.setPc v).devlog = s.devlog := rfl
@[simp] theorem State.setPc_nextToken (v : Word) : (s.setPc v).nextToken = s.nextToken := rfl
@[simp] theorem State.setPc_draws (v : Word) : (s.setPc v).draws = s.draws := rfl
@[simp] theorem State.setPc_hostCalls (v : Word) : (s.setPc v).hostCalls = s.hostCalls := rfl
@[simp] theorem State.setPc_reply (v : Word) : (s.setPc v).reply = s.reply := rfl

/-! `setSp` -/

@[simp] theorem State.setSp_params (v : Word) : (s.setSp v).params = s.params := rfl
@[simp] theorem State.setSp_a (v : Word) : (s.setSp v).a = s.a := rfl
@[simp] theorem State.setSp_fr (v : Word) : (s.setSp v).fr = s.fr := rfl
@[simp] theorem State.setSp_ir (v : Word) : (s.setSp v).ir = s.ir := rfl
@[simp] theorem State.setSp_pc (v : Word) : (s.setSp v).pc = s.pc := rfl
@[simp] theorem State.setSp_sp (v : Word) : (s.setSp v).sp = v := rfl
@[simp] theorem State.setSp_fp (v : Word) : (s.setSp v).fp = s.fp := rfl
@[simp] theorem State.setSp_gprs (v : Word) : (s.setSp v).gprs = s.gprs := rfl
@[simp] theorem State.setSp_regions (v : Word) : (s.setSp v).regions = s.regions := rfl
@[simp] theorem State.setSp_devices (v : Word) : (s.setSp v).devices = s.devices := rfl
@[simp] theorem State.setSp_fault (v : Word) : (s.setSp v).fault = s.fault := rfl
@[simp] theorem State.setSp_devlog (v : Word) : (s.setSp v).devlog = s.devlog := rfl
@[simp] theorem State.setSp_nextToken (v : Word) : (s.setSp v).nextToken = s.nextToken := rfl
@[simp] theorem State.setSp_draws (v : Word) : (s.setSp v).draws = s.draws := rfl
@[simp] theorem State.setSp_hostCalls (v : Word) : (s.setSp v).hostCalls = s.hostCalls := rfl
@[simp] theorem State.setSp_reply (v : Word) : (s.setSp v).reply = s.reply := rfl

/-! `setFp` -/

@[simp] theorem State.setFp_params (v : Word) : (s.setFp v).params = s.params := rfl
@[simp] theorem State.setFp_a (v : Word) : (s.setFp v).a = s.a := rfl
@[simp] theorem State.setFp_fr (v : Word) : (s.setFp v).fr = s.fr := rfl
@[simp] theorem State.setFp_ir (v : Word) : (s.setFp v).ir = s.ir := rfl
@[simp] theorem State.setFp_pc (v : Word) : (s.setFp v).pc = s.pc := rfl
@[simp] theorem State.setFp_sp (v : Word) : (s.setFp v).sp = s.sp := rfl
@[simp] theorem State.setFp_fp (v : Word) : (s.setFp v).fp = v := rfl
@[simp] theorem State.setFp_gprs (v : Word) : (s.setFp v).gprs = s.gprs := rfl
@[simp] theorem State.setFp_regions (v : Word) : (s.setFp v).regions = s.regions := rfl
@[simp] theorem State.setFp_devices (v : Word) : (s.setFp v).devices = s.devices := rfl
@[simp] theorem State.setFp_fault (v : Word) : (s.setFp v).fault = s.fault := rfl
@[simp] theorem State.setFp_devlog (v : Word) : (s.setFp v).devlog = s.devlog := rfl
@[simp] theorem State.setFp_nextToken (v : Word) : (s.setFp v).nextToken = s.nextToken := rfl
@[simp] theorem State.setFp_draws (v : Word) : (s.setFp v).draws = s.draws := rfl
@[simp] theorem State.setFp_hostCalls (v : Word) : (s.setFp v).hostCalls = s.hostCalls := rfl
@[simp] theorem State.setFp_reply (v : Word) : (s.setFp v).reply = s.reply := rfl

/-! `setGprs` -/

@[simp] theorem State.setGprs_params (v : List Gpr) : (s.setGprs v).params = s.params := rfl
@[simp] theorem State.setGprs_a (v : List Gpr) : (s.setGprs v).a = s.a := rfl
@[simp] theorem State.setGprs_fr (v : List Gpr) : (s.setGprs v).fr = s.fr := rfl
@[simp] theorem State.setGprs_ir (v : List Gpr) : (s.setGprs v).ir = s.ir := rfl
@[simp] theorem State.setGprs_pc (v : List Gpr) : (s.setGprs v).pc = s.pc := rfl
@[simp] theorem State.setGprs_sp (v : List Gpr) : (s.setGprs v).sp = s.sp := rfl
@[simp] theorem State.setGprs_fp (v : List Gpr) : (s.setGprs v).fp = s.fp := rfl
@[simp] theorem State.setGprs_gprs (v : List Gpr) : (s.setGprs v).gprs = v := rfl
@[simp] theorem State.setGprs_regions (v : List Gpr) : (s.setGprs v).regions = s.regions := rfl
@[simp] theorem State.setGprs_devices (v : List Gpr) : (s.setGprs v).devices = s.devices := rfl
@[simp] theorem State.setGprs_fault (v : List Gpr) : (s.setGprs v).fault = s.fault := rfl
@[simp] theorem State.setGprs_devlog (v : List Gpr) : (s.setGprs v).devlog = s.devlog := rfl
@[simp] theorem State.setGprs_nextToken (v : List Gpr) : (s.setGprs v).nextToken = s.nextToken := rfl
@[simp] theorem State.setGprs_draws (v : List Gpr) : (s.setGprs v).draws = s.draws := rfl
@[simp] theorem State.setGprs_hostCalls (v : List Gpr) : (s.setGprs v).hostCalls = s.hostCalls := rfl
@[simp] theorem State.setGprs_reply (v : List Gpr) : (s.setGprs v).reply = s.reply := rfl

/-! `setRegions` -/

@[simp] theorem State.setRegions_params (v : List Region) : (s.setRegions v).params = s.params := rfl
@[simp] theorem State.setRegions_a (v : List Region) : (s.setRegions v).a = s.a := rfl
@[simp] theorem State.setRegions_fr (v : List Region) : (s.setRegions v).fr = s.fr := rfl
@[simp] theorem State.setRegions_ir (v : List Region) : (s.setRegions v).ir = s.ir := rfl
@[simp] theorem State.setRegions_pc (v : List Region) : (s.setRegions v).pc = s.pc := rfl
@[simp] theorem State.setRegions_sp (v : List Region) : (s.setRegions v).sp = s.sp := rfl
@[simp] theorem State.setRegions_fp (v : List Region) : (s.setRegions v).fp = s.fp := rfl
@[simp] theorem State.setRegions_gprs (v : List Region) : (s.setRegions v).gprs = s.gprs := rfl
@[simp] theorem State.setRegions_regions (v : List Region) : (s.setRegions v).regions = v := rfl
@[simp] theorem State.setRegions_devices (v : List Region) : (s.setRegions v).devices = s.devices := rfl
@[simp] theorem State.setRegions_fault (v : List Region) : (s.setRegions v).fault = s.fault := rfl
@[simp] theorem State.setRegions_devlog (v : List Region) : (s.setRegions v).devlog = s.devlog := rfl
@[simp] theorem State.setRegions_nextToken (v : List Region) : (s.setRegions v).nextToken = s.nextToken := rfl
@[simp] theorem State.setRegions_draws (v : List Region) : (s.setRegions v).draws = s.draws := rfl
@[simp] theorem State.setRegions_hostCalls (v : List Region) : (s.setRegions v).hostCalls = s.hostCalls := rfl
@[simp] theorem State.setRegions_reply (v : List Region) : (s.setRegions v).reply = s.reply := rfl

/-! `setDevices` -/

@[simp] theorem State.setDevices_params (v : List Device) : (s.setDevices v).params = s.params := rfl
@[simp] theorem State.setDevices_a (v : List Device) : (s.setDevices v).a = s.a := rfl
@[simp] theorem State.setDevices_fr (v : List Device) : (s.setDevices v).fr = s.fr := rfl
@[simp] theorem State.setDevices_ir (v : List Device) : (s.setDevices v).ir = s.ir := rfl
@[simp] theorem State.setDevices_pc (v : List Device) : (s.setDevices v).pc = s.pc := rfl
@[simp] theorem State.setDevices_sp (v : List Device) : (s.setDevices v).sp = s.sp := rfl
@[simp] theorem State.setDevices_fp (v : List Device) : (s.setDevices v).fp = s.fp := rfl
@[simp] theorem State.setDevices_gprs (v : List Device) : (s.setDevices v).gprs = s.gprs := rfl
@[simp] theorem State.setDevices_regions (v : List Device) : (s.setDevices v).regions = s.regions := rfl
@[simp] theorem State.setDevices_devices (v : List Device) : (s.setDevices v).devices = v := rfl
@[simp] theorem State.setDevices_fault (v : List Device) : (s.setDevices v).fault = s.fault := rfl
@[simp] theorem State.setDevices_devlog (v : List Device) : (s.setDevices v).devlog = s.devlog := rfl
@[simp] theorem State.setDevices_nextToken (v : List Device) : (s.setDevices v).nextToken = s.nextToken := rfl
@[simp] theorem State.setDevices_draws (v : List Device) : (s.setDevices v).draws = s.draws := rfl
@[simp] theorem State.setDevices_hostCalls (v : List Device) : (s.setDevices v).hostCalls = s.hostCalls := rfl
@[simp] theorem State.setDevices_reply (v : List Device) : (s.setDevices v).reply = s.reply := rfl

/-! `setFault` -/

@[simp] theorem State.setFault_params (v : Option Fault) : (s.setFault v).params = s.params := rfl
@[simp] theorem State.setFault_a (v : Option Fault) : (s.setFault v).a = s.a := rfl
@[simp] theorem State.setFault_fr (v : Option Fault) : (s.setFault v).fr = s.fr := rfl
@[simp] theorem State.setFault_ir (v : Option Fault) : (s.setFault v).ir = s.ir := rfl
@[simp] theorem State.setFault_pc (v : Option Fault) : (s.setFault v).pc = s.pc := rfl
@[simp] theorem State.setFault_sp (v : Option Fault) : (s.setFault v).sp = s.sp := rfl
@[simp] theorem State.setFault_fp (v : Option Fault) : (s.setFault v).fp = s.fp := rfl
@[simp] theorem State.setFault_gprs (v : Option Fault) : (s.setFault v).gprs = s.gprs := rfl
@[simp] theorem State.setFault_regions (v : Option Fault) : (s.setFault v).regions = s.regions := rfl
@[simp] theorem State.setFault_devices (v : Option Fault) : (s.setFault v).devices = s.devices := rfl
@[simp] theorem State.setFault_fault (v : Option Fault) : (s.setFault v).fault = v := rfl
@[simp] theorem State.setFault_devlog (v : Option Fault) : (s.setFault v).devlog = s.devlog := rfl
@[simp] theorem State.setFault_nextToken (v : Option Fault) : (s.setFault v).nextToken = s.nextToken := rfl
@[simp] theorem State.setFault_draws (v : Option Fault) : (s.setFault v).draws = s.draws := rfl
@[simp] theorem State.setFault_hostCalls (v : Option Fault) : (s.setFault v).hostCalls = s.hostCalls := rfl
@[simp] theorem State.setFault_reply (v : Option Fault) : (s.setFault v).reply = s.reply := rfl

/-! `setDevlog` -/

@[simp] theorem State.setDevlog_params (v : List DeviceReport) : (s.setDevlog v).params = s.params := rfl
@[simp] theorem State.setDevlog_a (v : List DeviceReport) : (s.setDevlog v).a = s.a := rfl
@[simp] theorem State.setDevlog_fr (v : List DeviceReport) : (s.setDevlog v).fr = s.fr := rfl
@[simp] theorem State.setDevlog_ir (v : List DeviceReport) : (s.setDevlog v).ir = s.ir := rfl
@[simp] theorem State.setDevlog_pc (v : List DeviceReport) : (s.setDevlog v).pc = s.pc := rfl
@[simp] theorem State.setDevlog_sp (v : List DeviceReport) : (s.setDevlog v).sp = s.sp := rfl
@[simp] theorem State.setDevlog_fp (v : List DeviceReport) : (s.setDevlog v).fp = s.fp := rfl
@[simp] theorem State.setDevlog_gprs (v : List DeviceReport) : (s.setDevlog v).gprs = s.gprs := rfl
@[simp] theorem State.setDevlog_regions (v : List DeviceReport) : (s.setDevlog v).regions = s.regions := rfl
@[simp] theorem State.setDevlog_devices (v : List DeviceReport) : (s.setDevlog v).devices = s.devices := rfl
@[simp] theorem State.setDevlog_fault (v : List DeviceReport) : (s.setDevlog v).fault = s.fault := rfl
@[simp] theorem State.setDevlog_devlog (v : List DeviceReport) : (s.setDevlog v).devlog = v := rfl
@[simp] theorem State.setDevlog_nextToken (v : List DeviceReport) : (s.setDevlog v).nextToken = s.nextToken := rfl
@[simp] theorem State.setDevlog_draws (v : List DeviceReport) : (s.setDevlog v).draws = s.draws := rfl
@[simp] theorem State.setDevlog_hostCalls (v : List DeviceReport) : (s.setDevlog v).hostCalls = s.hostCalls := rfl
@[simp] theorem State.setDevlog_reply (v : List DeviceReport) : (s.setDevlog v).reply = s.reply := rfl

/-! `setNextToken` -/

@[simp] theorem State.setNextToken_params (v : Nat) : (s.setNextToken v).params = s.params := rfl
@[simp] theorem State.setNextToken_a (v : Nat) : (s.setNextToken v).a = s.a := rfl
@[simp] theorem State.setNextToken_fr (v : Nat) : (s.setNextToken v).fr = s.fr := rfl
@[simp] theorem State.setNextToken_ir (v : Nat) : (s.setNextToken v).ir = s.ir := rfl
@[simp] theorem State.setNextToken_pc (v : Nat) : (s.setNextToken v).pc = s.pc := rfl
@[simp] theorem State.setNextToken_sp (v : Nat) : (s.setNextToken v).sp = s.sp := rfl
@[simp] theorem State.setNextToken_fp (v : Nat) : (s.setNextToken v).fp = s.fp := rfl
@[simp] theorem State.setNextToken_gprs (v : Nat) : (s.setNextToken v).gprs = s.gprs := rfl
@[simp] theorem State.setNextToken_regions (v : Nat) : (s.setNextToken v).regions = s.regions := rfl
@[simp] theorem State.setNextToken_devices (v : Nat) : (s.setNextToken v).devices = s.devices := rfl
@[simp] theorem State.setNextToken_fault (v : Nat) : (s.setNextToken v).fault = s.fault := rfl
@[simp] theorem State.setNextToken_devlog (v : Nat) : (s.setNextToken v).devlog = s.devlog := rfl
@[simp] theorem State.setNextToken_nextToken (v : Nat) : (s.setNextToken v).nextToken = v := rfl
@[simp] theorem State.setNextToken_draws (v : Nat) : (s.setNextToken v).draws = s.draws := rfl
@[simp] theorem State.setNextToken_hostCalls (v : Nat) : (s.setNextToken v).hostCalls = s.hostCalls := rfl
@[simp] theorem State.setNextToken_reply (v : Nat) : (s.setNextToken v).reply = s.reply := rfl

/-! `setDraws` -/

@[simp] theorem State.setDraws_params (v : Nat) : (s.setDraws v).params = s.params := rfl
@[simp] theorem State.setDraws_a (v : Nat) : (s.setDraws v).a = s.a := rfl
@[simp] theorem State.setDraws_fr (v : Nat) : (s.setDraws v).fr = s.fr := rfl
@[simp] theorem State.setDraws_ir (v : Nat) : (s.setDraws v).ir = s.ir := rfl
@[simp] theorem State.setDraws_pc (v : Nat) : (s.setDraws v).pc = s.pc := rfl
@[simp] theorem State.setDraws_sp (v : Nat) : (s.setDraws v).sp = s.sp := rfl
@[simp] theorem State.setDraws_fp (v : Nat) : (s.setDraws v).fp = s.fp := rfl
@[simp] theorem State.setDraws_gprs (v : Nat) : (s.setDraws v).gprs = s.gprs := rfl
@[simp] theorem State.setDraws_regions (v : Nat) : (s.setDraws v).regions = s.regions := rfl
@[simp] theorem State.setDraws_devices (v : Nat) : (s.setDraws v).devices = s.devices := rfl
@[simp] theorem State.setDraws_fault (v : Nat) : (s.setDraws v).fault = s.fault := rfl
@[simp] theorem State.setDraws_devlog (v : Nat) : (s.setDraws v).devlog = s.devlog := rfl
@[simp] theorem State.setDraws_nextToken (v : Nat) : (s.setDraws v).nextToken = s.nextToken := rfl
@[simp] theorem State.setDraws_draws (v : Nat) : (s.setDraws v).draws = v := rfl
@[simp] theorem State.setDraws_hostCalls (v : Nat) : (s.setDraws v).hostCalls = s.hostCalls := rfl
@[simp] theorem State.setDraws_reply (v : Nat) : (s.setDraws v).reply = s.reply := rfl

/-! `setHostCalls` -/

@[simp] theorem State.setHostCalls_params (v : List HostCall) : (s.setHostCalls v).params = s.params := rfl
@[simp] theorem State.setHostCalls_a (v : List HostCall) : (s.setHostCalls v).a = s.a := rfl
@[simp] theorem State.setHostCalls_fr (v : List HostCall) : (s.setHostCalls v).fr = s.fr := rfl
@[simp] theorem State.setHostCalls_ir (v : List HostCall) : (s.setHostCalls v).ir = s.ir := rfl
@[simp] theorem State.setHostCalls_pc (v : List HostCall) : (s.setHostCalls v).pc = s.pc := rfl
@[simp] theorem State.setHostCalls_sp (v : List HostCall) : (s.setHostCalls v).sp = s.sp := rfl
@[simp] theorem State.setHostCalls_fp (v : List HostCall) : (s.setHostCalls v).fp = s.fp := rfl
@[simp] theorem State.setHostCalls_gprs (v : List HostCall) : (s.setHostCalls v).gprs = s.gprs := rfl
@[simp] theorem State.setHostCalls_regions (v : List HostCall) : (s.setHostCalls v).regions = s.regions := rfl
@[simp] theorem State.setHostCalls_devices (v : List HostCall) : (s.setHostCalls v).devices = s.devices := rfl
@[simp] theorem State.setHostCalls_fault (v : List HostCall) : (s.setHostCalls v).fault = s.fault := rfl
@[simp] theorem State.setHostCalls_devlog (v : List HostCall) : (s.setHostCalls v).devlog = s.devlog := rfl
@[simp] theorem State.setHostCalls_nextToken (v : List HostCall) : (s.setHostCalls v).nextToken = s.nextToken := rfl
@[simp] theorem State.setHostCalls_draws (v : List HostCall) : (s.setHostCalls v).draws = s.draws := rfl
@[simp] theorem State.setHostCalls_hostCalls (v : List HostCall) : (s.setHostCalls v).hostCalls = v := rfl
@[simp] theorem State.setHostCalls_reply (v : List HostCall) : (s.setHostCalls v).reply = s.reply := rfl

/-! `setReply` -/

@[simp] theorem State.setReply_params (v : Option HostReply) : (s.setReply v).params = s.params := rfl
@[simp] theorem State.setReply_a (v : Option HostReply) : (s.setReply v).a = s.a := rfl
@[simp] theorem State.setReply_fr (v : Option HostReply) : (s.setReply v).fr = s.fr := rfl
@[simp] theorem State.setReply_ir (v : Option HostReply) : (s.setReply v).ir = s.ir := rfl
@[simp] theorem State.setReply_pc (v : Option HostReply) : (s.setReply v).pc = s.pc := rfl
@[simp] theorem State.setReply_sp (v : Option HostReply) : (s.setReply v).sp = s.sp := rfl
@[simp] theorem State.setReply_fp (v : Option HostReply) : (s.setReply v).fp = s.fp := rfl
@[simp] theorem State.setReply_gprs (v : Option HostReply) : (s.setReply v).gprs = s.gprs := rfl
@[simp] theorem State.setReply_regions (v : Option HostReply) : (s.setReply v).regions = s.regions := rfl
@[simp] theorem State.setReply_devices (v : Option HostReply) : (s.setReply v).devices = s.devices := rfl
@[simp] theorem State.setReply_fault (v : Option HostReply) : (s.setReply v).fault = s.fault := rfl
@[simp] theorem State.setReply_devlog (v : Option HostReply) : (s.setReply v).devlog = s.devlog := rfl
@[simp] theorem State.setReply_nextToken (v : Option HostReply) : (s.setReply v).nextToken = s.nextToken := rfl
@[simp] theorem State.setReply_draws (v : Option HostReply) : (s.setReply v).draws = s.draws := rfl
@[simp] theorem State.setReply_hostCalls (v : Option HostReply) : (s.setReply v).hostCalls = s.hostCalls := rfl
@[simp] theorem State.setReply_reply (v : Option HostReply) : (s.setReply v).reply = v := rfl

/-! A second write of the same field, and a write of the value held. -/

@[simp] theorem State.setA_setA (v w : Byte) : (s.setA v).setA w = s.setA w := rfl
@[simp] theorem State.setA_self : s.setA s.a = s := rfl
@[simp] theorem State.setFr_setFr (v w : Byte) : (s.setFr v).setFr w = s.setFr w := rfl
@[simp] theorem State.setFr_self : s.setFr s.fr = s := rfl
@[simp] theorem State.setIr_setIr (v w : Byte) : (s.setIr v).setIr w = s.setIr w := rfl
@[simp] theorem State.setIr_self : s.setIr s.ir = s := rfl
@[simp] theorem State.setPc_setPc (v w : Word) : (s.setPc v).setPc w = s.setPc w := rfl
@[simp] theorem State.setPc_self : s.setPc s.pc = s := rfl
@[simp] theorem State.setSp_setSp (v w : Word) : (s.setSp v).setSp w = s.setSp w := rfl
@[simp] theorem State.setSp_self : s.setSp s.sp = s := rfl
@[simp] theorem State.setFp_setFp (v w : Word) : (s.setFp v).setFp w = s.setFp w := rfl
@[simp] theorem State.setFp_self : s.setFp s.fp = s := rfl
@[simp] theorem State.setGprs_setGprs (v w : List Gpr) : (s.setGprs v).setGprs w = s.setGprs w := rfl
@[simp] theorem State.setGprs_self : s.setGprs s.gprs = s := rfl
@[simp] theorem State.setRegions_setRegions (v w : List Region) : (s.setRegions v).setRegions w = s.setRegions w := rfl
@[simp] theorem State.setRegions_self : s.setRegions s.regions = s := rfl
@[simp] theorem State.setDevices_setDevices (v w : List Device) : (s.setDevices v).setDevices w = s.setDevices w := rfl
@[simp] theorem State.setDevices_self : s.setDevices s.devices = s := rfl
@[simp] theorem State.setFault_setFault (v w : Option Fault) : (s.setFault v).setFault w = s.setFault w := rfl
@[simp] theorem State.setFault_self : s.setFault s.fault = s := rfl
@[simp] theorem State.setDevlog_setDevlog (v w : List DeviceReport) : (s.setDevlog v).setDevlog w = s.setDevlog w := rfl
@[simp] theorem State.setDevlog_self : s.setDevlog s.devlog = s := rfl
@[simp] theorem State.setNextToken_setNextToken (v w : Nat) : (s.setNextToken v).setNextToken w = s.setNextToken w := rfl
@[simp] theorem State.setNextToken_self : s.setNextToken s.nextToken = s := rfl
@[simp] theorem State.setDraws_setDraws (v w : Nat) : (s.setDraws v).setDraws w = s.setDraws w := rfl
@[simp] theorem State.setDraws_self : s.setDraws s.draws = s := rfl
@[simp] theorem State.setHostCalls_setHostCalls (v w : List HostCall) : (s.setHostCalls v).setHostCalls w = s.setHostCalls w := rfl
@[simp] theorem State.setHostCalls_self : s.setHostCalls s.hostCalls = s := rfl
@[simp] theorem State.setReply_setReply (v w : Option HostReply) : (s.setReply v).setReply w = s.setReply w := rfl
@[simp] theorem State.setReply_self : s.setReply s.reply = s := rfl

end

end Sys2Proof.Machine
end

