-- ==== Sys2Proof/Laws/Bus.lean ====
section
/-! SUPPORT. What resolution, the device table and a bus access can do. -/

namespace Sys2Proof.Machine

/-! ## Updates that neither resolution nor memory sees -/

section
variable (s : State)

@[simp] theorem State.setA_resolve (v : Byte) (addr : Nat) : (s.setA v).resolve addr = s.resolve addr := rfl
@[simp] theorem State.setA_device (v : Byte) (i : Nat) : (s.setA v).device i = s.device i := rfl
@[simp] theorem State.setA_peek (v : Byte) (addr : Nat) : (s.setA v).peek addr = s.peek addr := rfl
@[simp] theorem State.setFr_resolve (v : Byte) (addr : Nat) : (s.setFr v).resolve addr = s.resolve addr := rfl
@[simp] theorem State.setFr_device (v : Byte) (i : Nat) : (s.setFr v).device i = s.device i := rfl
@[simp] theorem State.setFr_peek (v : Byte) (addr : Nat) : (s.setFr v).peek addr = s.peek addr := rfl
@[simp] theorem State.setIr_resolve (v : Byte) (addr : Nat) : (s.setIr v).resolve addr = s.resolve addr := rfl
@[simp] theorem State.setIr_device (v : Byte) (i : Nat) : (s.setIr v).device i = s.device i := rfl
@[simp] theorem State.setIr_peek (v : Byte) (addr : Nat) : (s.setIr v).peek addr = s.peek addr := rfl
@[simp] theorem State.setPc_resolve (v : Word) (addr : Nat) : (s.setPc v).resolve addr = s.resolve addr := rfl
@[simp] theorem State.setPc_device (v : Word) (i : Nat) : (s.setPc v).device i = s.device i := rfl
@[simp] theorem State.setPc_peek (v : Word) (addr : Nat) : (s.setPc v).peek addr = s.peek addr := rfl
@[simp] theorem State.setSp_resolve (v : Word) (addr : Nat) : (s.setSp v).resolve addr = s.resolve addr := rfl
@[simp] theorem State.setSp_device (v : Word) (i : Nat) : (s.setSp v).device i = s.device i := rfl
@[simp] theorem State.setSp_peek (v : Word) (addr : Nat) : (s.setSp v).peek addr = s.peek addr := rfl
@[simp] theorem State.setFp_resolve (v : Word) (addr : Nat) : (s.setFp v).resolve addr = s.resolve addr := rfl
@[simp] theorem State.setFp_device (v : Word) (i : Nat) : (s.setFp v).device i = s.device i := rfl
@[simp] theorem State.setFp_peek (v : Word) (addr : Nat) : (s.setFp v).peek addr = s.peek addr := rfl
@[simp] theorem State.setGprs_resolve (v : List Gpr) (addr : Nat) : (s.setGprs v).resolve addr = s.resolve addr := rfl
@[simp] theorem State.setGprs_device (v : List Gpr) (i : Nat) : (s.setGprs v).device i = s.device i := rfl
@[simp] theorem State.setGprs_peek (v : List Gpr) (addr : Nat) : (s.setGprs v).peek addr = s.peek addr := rfl
@[simp] theorem State.setRegions_device (v : List Region) (i : Nat) : (s.setRegions v).device i = s.device i := rfl
@[simp] theorem State.setDevices_resolve (v : List Device) (addr : Nat) : (s.setDevices v).resolve addr = s.resolve addr := rfl
@[simp] theorem State.setFault_resolve (v : Option Fault) (addr : Nat) : (s.setFault v).resolve addr = s.resolve addr := rfl
@[simp] theorem State.setFault_device (v : Option Fault) (i : Nat) : (s.setFault v).device i = s.device i := rfl
@[simp] theorem State.setFault_peek (v : Option Fault) (addr : Nat) : (s.setFault v).peek addr = s.peek addr := rfl
@[simp] theorem State.setDevlog_resolve (v : List DeviceReport) (addr : Nat) : (s.setDevlog v).resolve addr = s.resolve addr := rfl
@[simp] theorem State.setDevlog_device (v : List DeviceReport) (i : Nat) : (s.setDevlog v).device i = s.device i := rfl
@[simp] theorem State.setDevlog_peek (v : List DeviceReport) (addr : Nat) : (s.setDevlog v).peek addr = s.peek addr := rfl
@[simp] theorem State.setNextToken_resolve (v : Nat) (addr : Nat) : (s.setNextToken v).resolve addr = s.resolve addr := rfl
@[simp] theorem State.setNextToken_device (v : Nat) (i : Nat) : (s.setNextToken v).device i = s.device i := rfl
@[simp] theorem State.setNextToken_peek (v : Nat) (addr : Nat) : (s.setNextToken v).peek addr = s.peek addr := rfl
@[simp] theorem State.setDraws_resolve (v : Nat) (addr : Nat) : (s.setDraws v).resolve addr = s.resolve addr := rfl
@[simp] theorem State.setDraws_device (v : Nat) (i : Nat) : (s.setDraws v).device i = s.device i := rfl
@[simp] theorem State.setDraws_peek (v : Nat) (addr : Nat) : (s.setDraws v).peek addr = s.peek addr := rfl
@[simp] theorem State.setHostCalls_resolve (v : List HostCall) (addr : Nat) : (s.setHostCalls v).resolve addr = s.resolve addr := rfl
@[simp] theorem State.setHostCalls_device (v : List HostCall) (i : Nat) : (s.setHostCalls v).device i = s.device i := rfl
@[simp] theorem State.setHostCalls_peek (v : List HostCall) (addr : Nat) : (s.setHostCalls v).peek addr = s.peek addr := rfl
@[simp] theorem State.setReply_resolve (v : Option HostReply) (addr : Nat) : (s.setReply v).resolve addr = s.resolve addr := rfl
@[simp] theorem State.setReply_device (v : Option HostReply) (i : Nat) : (s.setReply v).device i = s.device i := rfl
@[simp] theorem State.setReply_peek (v : Option HostReply) (addr : Nat) : (s.setReply v).peek addr = s.peek addr := rfl

/-! `setDevice` -/

@[simp] theorem State.setDevice_params (i : Nat) (d : Device) : (s.setDevice i d).params = s.params := rfl
@[simp] theorem State.setDevice_a (i : Nat) (d : Device) : (s.setDevice i d).a = s.a := rfl
@[simp] theorem State.setDevice_fr (i : Nat) (d : Device) : (s.setDevice i d).fr = s.fr := rfl
@[simp] theorem State.setDevice_ir (i : Nat) (d : Device) : (s.setDevice i d).ir = s.ir := rfl
@[simp] theorem State.setDevice_pc (i : Nat) (d : Device) : (s.setDevice i d).pc = s.pc := rfl
@[simp] theorem State.setDevice_sp (i : Nat) (d : Device) : (s.setDevice i d).sp = s.sp := rfl
@[simp] theorem State.setDevice_fp (i : Nat) (d : Device) : (s.setDevice i d).fp = s.fp := rfl
@[simp] theorem State.setDevice_gprs (i : Nat) (d : Device) : (s.setDevice i d).gprs = s.gprs := rfl
@[simp] theorem State.setDevice_regions (i : Nat) (d : Device) : (s.setDevice i d).regions = s.regions := rfl
@[simp] theorem State.setDevice_fault (i : Nat) (d : Device) : (s.setDevice i d).fault = s.fault := rfl
@[simp] theorem State.setDevice_devlog (i : Nat) (d : Device) : (s.setDevice i d).devlog = s.devlog := rfl
@[simp] theorem State.setDevice_nextToken (i : Nat) (d : Device) : (s.setDevice i d).nextToken = s.nextToken := rfl
@[simp] theorem State.setDevice_draws (i : Nat) (d : Device) : (s.setDevice i d).draws = s.draws := rfl
@[simp] theorem State.setDevice_hostCalls (i : Nat) (d : Device) : (s.setDevice i d).hostCalls = s.hostCalls := rfl
@[simp] theorem State.setDevice_reply (i : Nat) (d : Device) : (s.setDevice i d).reply = s.reply := rfl
@[simp] theorem State.setDevice_devices (i : Nat) (d : Device) : (s.setDevice i d).devices = s.devices.set i d := rfl
@[simp] theorem State.setDevice_resolve (i : Nat) (d : Device) (addr : Nat) :
    (s.setDevice i d).resolve addr = s.resolve addr := rfl

end

/-! ## The device table -/

theorem State.device_setDevice (s : State) (i j : Nat) (d : Device) :
    (s.setDevice i d).device j = if j = i ∧ i < s.devices.length then d else s.device j := by
  simp only [State.device, State.setDevice_devices, List.getD_eq_getElem?_getD, List.getElem?_set]
  by_cases h : i = j
  · subst h
    by_cases hl : i < s.devices.length
    · simp [hl]
    · simp [hl]
  · simp [h, Ne.symm h]

/-- A device that has room for a byte is one of the machine's devices. -/
theorem State.lt_of_capacity {s : State} {i : Nat} (h : 0 < (s.device i).capacity) : i < s.devices.length := by
  by_contra hc
  simp [State.device, List.getD_eq_getElem?_getD, List.getElem?_eq_none (Nat.le_of_not_lt hc), Device.missing] at h

theorem State.device_setDevice_self {s : State} {i : Nat} (h : i < s.devices.length) (d : Device) :
    (s.setDevice i d).device i = d := by simp [State.device_setDevice, h]

theorem State.device_setDevice_ne {s : State} {i j : Nat} (h : j ≠ i) (d : Device) :
    (s.setDevice i d).device j = s.device j := by simp [State.device_setDevice, h]

/-- Putting a device back where it was changes nothing. -/
theorem State.setDevice_device (s : State) (i : Nat) : s.setDevice i (s.device i) = s := by
  have h : s.devices.set i (s.device i) = s.devices := by
    by_cases hl : i < s.devices.length
    · simp [State.device, List.getD_eq_getElem?_getD, List.getElem?_eq_getElem hl]
    · simp [List.set_eq_of_length_le (Nat.le_of_not_lt hl)]
  simp [State.setDevice, h]

theorem State.setDevice_setDevice (s : State) (i : Nat) (d d' : Device) :
    (s.setDevice i d).setDevice i d' = s.setDevice i d' := by simp [State.setDevice]

/-- A property of every device of the machine holds of the device of an identity, if it holds of the missing device. -/
theorem State.device_of_forall {s : State} {P : Device → Prop} (h : ∀ d ∈ s.devices, P d) (hm : P Device.missing)
    (i : Nat) : P (s.device i) := by
  unfold State.device
  rw [List.getD_eq_getElem?_getD]
  cases hi : s.devices[i]? with
  | none => simpa using hm
  | some d => simpa using h d (List.mem_of_getElem? hi)

/-! ## Resolution -/

theorem Region.contains_iff (r : Region) (addr : Nat) : r.contains addr = true ↔ r.start ≤ addr ∧ addr ≤ r.last := by
  simp [Region.contains]

theorem State.resolve_cons (s : State) (r : Region) (rs : List Region) (addr : Nat) :
    (s.setRegions (r :: rs)).resolve addr =
      if r.start ≤ addr ∧ addr ≤ r.last then some (r.device, r.offset addr) else (s.setRegions rs).resolve addr := by
  simp only [State.resolve, State.setRegions_regions, findRegion, List.find?_cons]
  by_cases h : r.contains addr = true
  · simp [h, (Region.contains_iff r addr).1 h]
  · rw [if_neg (fun hc => h ((Region.contains_iff r addr).2 hc))]
    simp [h]

/-! ## Reading one byte -/

theorem State.peek_of_resolve {s : State} {addr i off : Nat} (h : s.resolve addr = some (i, off)) :
    s.peek addr = if off < (s.device i).capacity then some ((s.device i).mem.read off) else none := by
  simp [State.peek, h]

theorem State.peek_none_of_unmapped {s : State} {addr : Nat} (h : s.resolve addr = none) : s.peek addr = none := by
  simp [State.peek, h]

theorem State.peek_some_iff {s : State} {addr : Nat} {b : Byte} :
    s.peek addr = some b ↔
      ∃ i off, s.resolve addr = some (i, off) ∧ off < (s.device i).capacity ∧ (s.device i).mem.read off = b := by
  unfold State.peek
  split
  · next h => simp [h]
  · next i off h =>
    simp only [h, Option.some.injEq, Prod.mk.injEq]
    constructor
    · intro hp
      split at hp
      · next hc => exact ⟨i, off, ⟨rfl, rfl⟩, hc, by simpa using hp⟩
      · cases hp
    · rintro ⟨i', off', ⟨rfl, rfl⟩, hc, hb⟩
      simp [hc, hb]

/-- Two states with the same regions whose devices read alike have the same bytes. -/
theorem State.peek_congr {s t : State} (hr : t.regions = s.regions)
    (hd : ∀ i, (t.device i).capacity = (s.device i).capacity ∧ (t.device i).mem = (s.device i).mem) (addr : Nat) :
    t.peek addr = s.peek addr := by
  have hres : t.resolve addr = s.resolve addr := by simp [State.resolve, hr]
  simp only [State.peek, hres, (hd _).1, (hd _).2]

/-! ## What a read leaves -/

theorem State.touchAt_of_resolve {s : State} {addr i off : Nat} (h : s.resolve addr = some (i, off)) :
    s.touchAt addr = s.setDevice i (s.device i).touch := by simp [State.touchAt, h]

theorem State.touchAt_of_ram {s : State} {addr i off : Nat} (h : s.resolve addr = some (i, off))
    (hk : (s.device i).kind = .ram) : s.touchAt addr = s := by
  rw [State.touchAt_of_resolve h, Device.touch_ram hk, State.setDevice_device]

/-- A read changes the devices alone. -/
theorem State.touchAt_eq (s : State) (addr : Nat) : ∃ ds, s.touchAt addr = s.setDevices ds := by
  unfold State.touchAt
  split
  · exact ⟨s.devices, rfl⟩
  · exact ⟨_, rfl⟩

theorem State.touchAt_device (s : State) (addr i : Nat) :
    (s.touchAt addr).device i = s.device i ∨ (s.touchAt addr).device i = (s.device i).touch := by
  unfold State.touchAt
  split
  · exact .inl rfl
  · next j off _ =>
    rw [State.device_setDevice]
    split
    · next h => exact .inr (by rw [h.1])
    · exact .inl rfl


section
variable (s : State) (addr : Nat)

@[simp] theorem State.touchAt_params : (s.touchAt addr).params = s.params := by
  obtain ⟨ds, h⟩ := s.touchAt_eq addr; rw [h]; rfl
@[simp] theorem State.touchAt_a : (s.touchAt addr).a = s.a := by
  obtain ⟨ds, h⟩ := s.touchAt_eq addr; rw [h]; rfl
@[simp] theorem State.touchAt_fr : (s.touchAt addr).fr = s.fr := by
  obtain ⟨ds, h⟩ := s.touchAt_eq addr; rw [h]; rfl
@[simp] theorem State.touchAt_ir : (s.touchAt addr).ir = s.ir := by
  obtain ⟨ds, h⟩ := s.touchAt_eq addr; rw [h]; rfl
@[simp] theorem State.touchAt_pc : (s.touchAt addr).pc = s.pc := by
  obtain ⟨ds, h⟩ := s.touchAt_eq addr; rw [h]; rfl
@[simp] theorem State.touchAt_sp : (s.touchAt addr).sp = s.sp := by
  obtain ⟨ds, h⟩ := s.touchAt_eq addr; rw [h]; rfl
@[simp] theorem State.touchAt_fp : (s.touchAt addr).fp = s.fp := by
  obtain ⟨ds, h⟩ := s.touchAt_eq addr; rw [h]; rfl
@[simp] theorem State.touchAt_gprs : (s.touchAt addr).gprs = s.gprs := by
  obtain ⟨ds, h⟩ := s.touchAt_eq addr; rw [h]; rfl
@[simp] theorem State.touchAt_regions : (s.touchAt addr).regions = s.regions := by
  obtain ⟨ds, h⟩ := s.touchAt_eq addr; rw [h]; rfl
@[simp] theorem State.touchAt_fault : (s.touchAt addr).fault = s.fault := by
  obtain ⟨ds, h⟩ := s.touchAt_eq addr; rw [h]; rfl
@[simp] theorem State.touchAt_devlog : (s.touchAt addr).devlog = s.devlog := by
  obtain ⟨ds, h⟩ := s.touchAt_eq addr; rw [h]; rfl
@[simp] theorem State.touchAt_nextToken : (s.touchAt addr).nextToken = s.nextToken := by
  obtain ⟨ds, h⟩ := s.touchAt_eq addr; rw [h]; rfl
@[simp] theorem State.touchAt_draws : (s.touchAt addr).draws = s.draws := by
  obtain ⟨ds, h⟩ := s.touchAt_eq addr; rw [h]; rfl
@[simp] theorem State.touchAt_hostCalls : (s.touchAt addr).hostCalls = s.hostCalls := by
  obtain ⟨ds, h⟩ := s.touchAt_eq addr; rw [h]; rfl
@[simp] theorem State.touchAt_reply : (s.touchAt addr).reply = s.reply := by
  obtain ⟨ds, h⟩ := s.touchAt_eq addr; rw [h]; rfl

@[simp] theorem State.touchAt_resolve (addr' : Nat) : (s.touchAt addr).resolve addr' = s.resolve addr' := by
  simp [State.resolve]

@[simp] theorem State.touchAt_capacity (i : Nat) : ((s.touchAt addr).device i).capacity = (s.device i).capacity := by
  rcases s.touchAt_device addr i with h | h <;> simp [h]

@[simp] theorem State.touchAt_mem (i : Nat) : ((s.touchAt addr).device i).mem = (s.device i).mem := by
  rcases s.touchAt_device addr i with h | h <;> simp [h]

@[simp] theorem State.touchAt_isRom (i : Nat) : ((s.touchAt addr).device i).isRom = (s.device i).isRom := by
  rcases s.touchAt_device addr i with h | h <;> simp [h]

/-- A read leaves every byte as it was. -/
@[simp] theorem State.touchAt_peek (addr' : Nat) : (s.touchAt addr).peek addr' = s.peek addr' :=
  State.peek_congr (by simp) (fun i => ⟨by simp, by simp⟩) addr'

end

/-! ## Bus accesses -/

theorem State.busAccess_unmapped {s : State} {addr : Nat} {α : Type} (f : Device → Nat → DevResult α)
    (h : s.resolve addr = none) : s.busAccess addr f = .fail (.unmapped addr) s := by simp [State.busAccess, h]

theorem State.busAccess_ok {s : State} {addr i off : Nat} {α : Type} {f : Device → Nat → DevResult α} {a : α} {d : Device}
    (h : s.resolve addr = some (i, off)) (hf : f (s.device i) off = .ok a d) :
    s.busAccess addr f = .ok a (s.setDevice i d) := by simp [State.busAccess, h, hf]

theorem State.busAccess_fail {s : State} {addr i off : Nat} {α : Type} {f : Device → Nat → DevResult α} {e : DevFail}
    {d : Device} (h : s.resolve addr = some (i, off)) (hf : f (s.device i) off = .fail e d) :
    s.busAccess addr f = .fail (.device { addr := addr, info := e }) (s.setDevice i d) := by
  simp [State.busAccess, h, hf]

/-- Everything a bus access can do (20_memory.md R54 to R60). -/
theorem State.busAccess_cases (s : State) (addr : Nat) {α : Type} (f : Device → Nat → DevResult α) :
    (s.resolve addr = none ∧ s.busAccess addr f = .fail (.unmapped addr) s) ∨
      ∃ i off, s.resolve addr = some (i, off) ∧
        ((∃ a d, f (s.device i) off = .ok a d ∧ s.busAccess addr f = .ok a (s.setDevice i d)) ∨
          (∃ e d, f (s.device i) off = .fail e d ∧
            s.busAccess addr f = .fail (.device { addr := addr, info := e }) (s.setDevice i d))) := by
  cases h : s.resolve addr with
  | none => exact .inl ⟨rfl, State.busAccess_unmapped f h⟩
  | some p =>
    obtain ⟨i, off⟩ := p
    refine .inr ⟨i, off, rfl, ?_⟩
    cases hf : f (s.device i) off with
    | ok a d => exact .inl ⟨a, d, rfl, State.busAccess_ok h hf⟩
    | fail e d => exact .inr ⟨e, d, rfl, State.busAccess_fail h hf⟩

/-- Reading a byte that is there gives it and leaves `touchAt` (20_memory.md R55). -/
theorem State.busRead_of_peek {s : State} {addr : Nat} {b : Byte} (h : s.peek addr = some b) :
    s.busRead addr = .ok b (s.touchAt addr) := by
  obtain ⟨i, off, hr, hc, hb⟩ := State.peek_some_iff.1 h
  rw [State.busRead, State.busAccess_ok hr (a := b) (d := (s.device i).touch) (by simp [Device.read, hc, hb]),
    State.touchAt_of_resolve hr]

/-! ## Devices after an access -/

/-- The device tables before and after keep class, capacity and form device by device. -/
abbrev DevicesKeep (ds ds' : List Device) : Prop := List.Forall₂ Device.Keeps ds ds'

theorem DevicesKeep.refl (ds : List Device) : DevicesKeep ds ds := List.forall₂_same.2 (fun d _ => Device.Keeps.refl d)

theorem DevicesKeep.trans {ds ds' ds'' : List Device} (h : DevicesKeep ds ds') (h' : DevicesKeep ds' ds'') :
    DevicesKeep ds ds'' := by
  induction h generalizing ds'' with
  | nil => exact h'
  | cons hd _ ih =>
    cases h' with
    | cons hd' ht' => exact .cons (hd.trans hd') (ih ht')

theorem DevicesKeep.set {ds : List Device} {i : Nat} {d : Device} (h : (ds.getD i Device.missing).Keeps d) :
    DevicesKeep ds (ds.set i d) := by
  induction ds generalizing i with
  | nil => exact .nil
  | cons e ds ih =>
    cases i with
    | zero => exact .cons (by simpa using h) (DevicesKeep.refl ds)
    | succ i => exact .cons (Device.Keeps.refl e) (ih (by simpa using h))

theorem DevicesKeep.wf {ds ds' : List Device} (h : DevicesKeep ds ds') (hw : ∀ d ∈ ds, d.Wf) : ∀ d ∈ ds', d.Wf := by
  induction h with
  | nil => simp
  | cons hd _ ih =>
    intro d hm
    rcases List.mem_cons.1 hm with rfl | hm
    · exact hd.2.2 (hw _ (by simp))
    · exact ih (fun d hd => hw d (by simp [hd])) d hm

/-- The class and the capacity of each device. -/
def deviceShapes (ds : List Device) : List (Bool × Nat) := ds.map (fun d => (d.isRom, d.capacity))

theorem DevicesKeep.shapes {ds ds' : List Device} (h : DevicesKeep ds ds') : deviceShapes ds' = deviceShapes ds := by
  induction h with
  | nil => rfl
  | cons hd _ ih =>
    simp only [deviceShapes, List.map_cons] at ih ⊢
    rw [hd.1, hd.2.1, ih]

/-- What a bus access leaves: the devices keep their form, the count of draws may rise, nothing else changes. -/
def BusStep (s t : State) : Prop := ∃ ds n, DevicesKeep s.devices ds ∧ t = (s.setDevices ds).setDraws n

theorem BusStep.refl (s : State) : BusStep s s := ⟨s.devices, s.draws, DevicesKeep.refl _, rfl⟩

theorem BusStep.setDevice {s : State} {i : Nat} {d : Device} (h : (s.device i).Keeps d) :
    BusStep s (s.setDevice i d) := ⟨s.devices.set i d, s.draws, DevicesKeep.set h, rfl⟩

/-- The state of a bus result. -/
def BusResult.state {α : Type} : BusResult α → State
  | .ok _ s => s
  | .fail _ s => s

theorem State.busAccess_step (s : State) (addr : Nat) {α : Type} {f : Device → Nat → DevResult α}
    (hf : ∀ d off, (∀ a d', f d off = .ok a d' → d.Keeps d') ∧ (∀ e d', f d off = .fail e d' → d.Keeps d')) :
    BusStep s (s.busAccess addr f).state := by
  rcases s.busAccess_cases addr f with ⟨_, h⟩ | ⟨i, off, _, ⟨a, d, hd, h⟩ | ⟨e, d, hd, h⟩⟩ <;> rw [h]
  · exact BusStep.refl s
  · exact BusStep.setDevice ((hf _ _).1 a d hd)
  · exact BusStep.setDevice ((hf _ _).2 e d hd)

theorem State.busRead_step (s : State) (addr : Nat) : BusStep s (s.busRead addr).state :=
  s.busAccess_step addr Device.read_keeps

theorem State.busRead16_step (s : State) (addr : Nat) : BusStep s (s.busRead16 addr).state :=
  s.busAccess_step addr Device.read16_keeps

theorem State.busWrite_step (s : State) (addr : Nat) (b : Byte) : BusStep s (s.busWrite addr b).state :=
  s.busAccess_step addr (fun d off => d.write_keeps off b)

theorem BusResult.countDraw_step {s : State} {r : BusResult Unit} (h : BusStep s r.state) :
    BusStep s r.countDraw.state := by
  unfold BusResult.countDraw
  split
  · next e t =>
    obtain ⟨ds, n, hd, ht⟩ := h
    exact ⟨ds, t.draws + 1, hd, by simp only [BusResult.state] at ht ⊢; rw [ht]; rfl⟩
  · exact h
  · exact h

theorem State.busWrite16_step (s : State) (addr : Nat) (w : Word) : BusStep s (s.busWrite16 addr w).state :=
  BusResult.countDraw_step (s.busAccess_step addr (fun d off => d.write16_keeps off w _))

end Sys2Proof.Machine
end

