-- ==== Sys2Proof/Laws/Ops.lean ====
section
/-! SUPPORT. What the core's primitives can do: memory accesses, stack, fetches, interrupt registers, taking an interrupt. -/

namespace Sys2Proof.Machine

/-! ## Sequencing -/

@[simp] theorem Res.bind_ok {α β : Type} (a : α) (s : State) (f : α → State → Res β) : (Res.ok a s).bind f = f a s := rfl

@[simp] theorem Res.bind_raised {α β : Type} (s : State) (f : α → State → Res β) :
    (Res.raised s : Res α).bind f = .raised s := rfl

/-- A sequence that ends with a value: so did its first part. -/
theorem Res.bind_eq_ok {α β : Type} {r : Res α} {f : α → State → Res β} {b : β} {t : State} :
    r.bind f = .ok b t ↔ ∃ a s, r = .ok a s ∧ f a s = .ok b t := by
  cases r <;> simp

/-- A sequence that raised: its first part did, or its second. -/
theorem Res.bind_eq_raised {α β : Type} {r : Res α} {f : α → State → Res β} {t : State} :
    r.bind f = .raised t ↔ r = .raised t ∨ ∃ a s, r = .ok a s ∧ f a s = .raised t := by
  cases r <;> simp

/-! ## What an operation of the core leaves -/

/-- A fault the policy lets the core raise (60_exceptions.md R142). -/
def RaisedUnder (p : FaultPolicy) (f : Fault) : Prop := p = .sentinel → ∀ r, f ≠ .deviceFault r

/-- What an operation of the core leaves, short of A and FR: the devices keep their form, the log may grow under `sentinel`
alone, PC, SP and IR may change, and the fault record is as before or holds a fault the policy lets the core raise.
Everything else is unchanged. -/
def OpStep (s t : State) : Prop :=
  ∃ ds n log pc sp ir flt, DevicesKeep s.devices ds ∧ (s.params.policy = .halt → log = []) ∧
    (flt = s.fault ∨ ∃ f, flt = some f ∧ RaisedUnder s.params.policy f) ∧
    t = { s with devices := ds, draws := n, devlog := s.devlog ++ log, pc := pc, sp := sp, ir := ir, fault := flt }

theorem OpStep.refl (s : State) : OpStep s s :=
  ⟨s.devices, s.draws, [], s.pc, s.sp, s.ir, s.fault, DevicesKeep.refl _, fun _ => rfl, .inl rfl, by
    rw [List.append_nil]⟩

theorem OpStep.trans {s t u : State} (h : OpStep s t) (h' : OpStep t u) : OpStep s u := by
  obtain ⟨ds, n, log, pc, sp, ir, flt, hd, hl, hf, rfl⟩ := h
  obtain ⟨ds', n', log', pc', sp', ir', flt', hd', hl', hf', rfl⟩ := h'
  refine ⟨ds', n', log ++ log', pc', sp', ir', flt', hd.trans hd', fun hp => ?_, ?_, ?_⟩
  · rw [hl hp, hl' hp]; rfl
  · rcases hf' with rfl | hf'
    · exact hf
    · exact .inr hf'
  · simp only [List.append_assoc]

theorem OpStep.of_busStep {s t : State} (h : BusStep s t) : OpStep s t := by
  obtain ⟨ds, n, hd, rfl⟩ := h
  exact ⟨ds, n, [], s.pc, s.sp, s.ir, s.fault, hd, fun _ => rfl, .inl rfl, by
    rw [List.append_nil]; rfl⟩

theorem OpStep.setPc (s : State) (v : Word) : OpStep s (s.setPc v) :=
  ⟨s.devices, s.draws, [], v, s.sp, s.ir, s.fault, DevicesKeep.refl _, fun _ => rfl, .inl rfl, by
    rw [List.append_nil]; rfl⟩

theorem OpStep.setSp (s : State) (v : Word) : OpStep s (s.setSp v) :=
  ⟨s.devices, s.draws, [], s.pc, v, s.ir, s.fault, DevicesKeep.refl _, fun _ => rfl, .inl rfl, by
    rw [List.append_nil]; rfl⟩

theorem OpStep.setIr (s : State) (v : Byte) : OpStep s (s.setIr v) :=
  ⟨s.devices, s.draws, [], s.pc, s.sp, v, s.fault, DevicesKeep.refl _, fun _ => rfl, .inl rfl, by
    rw [List.append_nil]; rfl⟩

theorem OpStep.setFault (s : State) {f : Fault} (h : RaisedUnder s.params.policy f) : OpStep s (s.setFault (some f)) :=
  ⟨s.devices, s.draws, [], s.pc, s.sp, s.ir, some f, DevicesKeep.refl _, fun _ => rfl, .inr ⟨f, rfl, h⟩, by
    rw [List.append_nil]; rfl⟩

theorem OpStep.logDevice (s : State) (r : DeviceReport) (h : s.params.policy = .sentinel) :
    OpStep s (s.setDevlog (s.devlog ++ [r])) :=
  ⟨s.devices, s.draws, [r], s.pc, s.sp, s.ir, s.fault, DevicesKeep.refl _, fun hp => by simp [h] at hp, .inl rfl, rfl⟩

/-- What a result of the core leaves: `OpStep`, and a value leaves the fault record as it was while a raise sets it. -/
def Res.Steps {α : Type} (s : State) : Res α → Prop
  | .ok _ t => OpStep s t ∧ t.fault = s.fault
  | .raised t => OpStep s t ∧ t.fault.isSome = true

theorem Res.Steps.bind {α β : Type} {s : State} {r : Res α} {f : α → State → Res β} (h : r.Steps s)
    (hf : ∀ a t, r = .ok a t → (f a t).Steps t) : (r.bind f).Steps s := by
  cases r with
  | raised t => exact h
  | ok a t =>
    have h2 := hf a t rfl
    rw [Res.bind_ok]
    cases hr : f a t with
    | ok b u => rw [hr] at h2; exact ⟨h.1.trans h2.1, h2.2.trans h.2⟩
    | raised u => rw [hr] at h2; exact ⟨h.1.trans h2.1, h2.2⟩

theorem State.raise_steps {α : Type} (s : State) {f : Fault} (h : RaisedUnder s.params.policy f) :
    (s.raise f : Res α).Steps s := ⟨OpStep.setFault s h, rfl⟩

theorem BusResult.settle_steps {α : Type} (dflt : α) {s : State} {r : BusResult α} (h : BusStep s r.state) :
    (r.settle dflt).Steps s := by
  have hfault : r.state.fault = s.fault := by obtain ⟨_, _, _, h⟩ := h; rw [h]; rfl
  have hop := OpStep.of_busStep h
  unfold BusResult.settle
  split
  · exact ⟨hop, hfault⟩
  · exact ⟨hop.trans (OpStep.setFault _ (f := .unmappedAddress _) (fun _ _ h => by cases h)), rfl⟩
  · split
    · next hp => exact ⟨hop.trans (OpStep.setFault _ (f := .deviceFault _) (fun hs => by cases hp.symm.trans hs)), rfl⟩
    · next hp => exact ⟨hop.trans (OpStep.logDevice _ _ hp), hfault⟩

theorem State.memRead8_steps (s : State) (addr : Nat) : (s.memRead8 addr).Steps s :=
  BusResult.settle_steps _ (s.busRead_step addr)

theorem State.memRead16_steps (s : State) (addr : Nat) : (s.memRead16 addr).Steps s :=
  BusResult.settle_steps _ (s.busRead16_step addr)

theorem State.memWrite8_steps (s : State) (addr : Nat) (v : Byte) : (s.memWrite8 addr v).Steps s :=
  BusResult.settle_steps _ (s.busWrite_step addr v)

theorem State.memWrite16_steps (s : State) (addr : Nat) (v : Word) : (s.memWrite16 addr v).Steps s :=
  BusResult.settle_steps _ (s.busWrite16_step addr v)

theorem State.push_steps (s : State) (v : Word) : (s.push v).Steps s :=
  (s.memWrite16_steps _ v).bind fun _ t _ => ⟨OpStep.setSp t _, rfl⟩

theorem State.pop_steps (s : State) : s.pop.Steps s := by
  have h := (s.setSp (s.sp + 2#16)).memRead16_steps (s.sp + 2#16).toNat
  unfold State.pop
  cases hr : (s.setSp (s.sp + 2#16)).memRead16 (s.sp + 2#16).toNat with
  | ok a t => rw [hr] at h; exact ⟨(OpStep.setSp s _).trans h.1, h.2⟩
  | raised t => rw [hr] at h; exact ⟨(OpStep.setSp s _).trans h.1, h.2⟩

theorem State.ifSet_steps (s : State) (l : Line) : (s.ifSet l).Steps s :=
  (s.memRead8_steps _).bind fun v t _ => t.memWrite8_steps _ (v ||| bitMask l)

theorem State.ifClear_steps (s : State) (l : Line) : (s.ifClear l).Steps s :=
  (s.memRead8_steps _).bind fun v t _ => t.memWrite8_steps _ (v &&& ~~~ bitMask l)

theorem State.takeInterrupt_steps (s : State) (l : Line) : (s.takeInterrupt l).Steps s := by
  refine (s.push_steps s.pc).bind fun _ t _ => (t.memRead16_steps _).bind fun h u _ => ?_
  have h2 := (u.setPc h).ifClear_steps l
  cases hr : (u.setPc h).ifClear l with
  | ok a t => rw [hr] at h2; exact ⟨(OpStep.setPc u h).trans h2.1, h2.2⟩
  | raised t => rw [hr] at h2; exact ⟨(OpStep.setPc u h).trans h2.1, h2.2⟩

theorem State.fetch8_steps (s : State) : s.fetch8.Steps s :=
  (s.memRead8_steps _).bind fun _ t _ => ⟨OpStep.setPc t _, rfl⟩

theorem State.fetch16_steps (s : State) : s.fetch16.Steps s :=
  (s.memRead16_steps _).bind fun _ t _ => ⟨OpStep.setPc t _, rfl⟩

theorem State.fetchInstruction_steps (s : State) : s.fetchInstruction.Steps s :=
  s.fetch8_steps.bind fun op t _ => ⟨OpStep.setIr t op, rfl⟩

theorem State.fetchOperand_steps (s : State) (f : Format) : (s.fetchOperand f).Steps s := by
  cases f with
  | op => exact ⟨OpStep.refl s, rfl⟩
  | i8 => exact s.fetch8_steps
  | i16 => exact s.fetch16_steps

/-! ## Memory accesses that succeed, and those that find no region -/

/-- Reading a byte that is there gives it and leaves `touchAt` (20_memory.md R65). -/
theorem State.memRead8_of_peek {s : State} {addr : Nat} {b : Byte} (h : s.peek addr = some b) :
    s.memRead8 addr = .ok b (s.touchAt addr) := by rw [State.memRead8, State.busRead_of_peek h]; rfl

theorem State.memRead8_unmapped {s : State} {addr : Nat} (h : s.resolve addr = none) :
    s.memRead8 addr = .raised (s.setFault (some (.unmappedAddress addr))) := by
  rw [State.memRead8, State.busRead, State.busAccess_unmapped _ h]; rfl

theorem State.memRead16_unmapped {s : State} {addr : Nat} (h : s.resolve addr = none) :
    s.memRead16 addr = .raised (s.setFault (some (.unmappedAddress addr))) := by
  rw [State.memRead16, State.busRead16, State.busAccess_unmapped _ h]; rfl

theorem State.memWrite8_unmapped {s : State} {addr : Nat} (v : Byte) (h : s.resolve addr = none) :
    s.memWrite8 addr v = .raised (s.setFault (some (.unmappedAddress addr))) := by
  rw [State.memWrite8, State.busWrite, State.busAccess_unmapped _ h]; rfl

theorem State.memWrite16_unmapped {s : State} {addr : Nat} (v : Word) (h : s.resolve addr = none) :
    s.memWrite16 addr v = .raised (s.setFault (some (.unmappedAddress addr))) := by
  rw [State.memWrite16, State.busWrite16, State.busAccess_unmapped _ h]; rfl

/-- Reading a word that fits in one device (20_memory.md R56, R65). -/
theorem State.memRead16_of_resolve {s : State} {addr i off : Nat} (h : s.resolve addr = some (i, off))
    (hc : off + 1 < (s.device i).capacity) :
    s.memRead16 addr = .ok (joinBytes ((s.device i).mem.read off) ((s.device i).mem.read (off + 1))) (s.touchAt addr) := by
  rw [State.memRead16, State.busRead16, State.busAccess_ok h
    (a := joinBytes ((s.device i).mem.read off) ((s.device i).mem.read (off + 1))) (d := (s.device i).touch)
    (by simp [Device.read16, hc]), State.touchAt_of_resolve h]
  rfl

/-- Writing a byte of a RAM (20_memory.md R41, R66). -/
theorem State.memWrite8_ram {s : State} {addr i off : Nat} (h : s.RamByte addr i off) (v : Byte) :
    s.memWrite8 addr v = .ok () (s.setDevice i ((s.device i).withMem ((s.device i).mem.write off v))) := by
  rw [State.memWrite8, State.busWrite, State.busAccess_ok h.1 (a := ())
    (d := ((s.device i).withMem ((s.device i).mem.write off v))) (by simp [Device.write, h.2.1, h.2.2])]
  rfl

/-- Writing a word that fits in one RAM (20_memory.md R44, R66). -/
theorem State.memWrite16_ram {s : State} {addr i off : Nat} (h : s.RamWord addr i off) (v : Word) :
    s.memWrite16 addr v = .ok () (s.setDevice i
      ((s.device i).withMem (((s.device i).mem.write off (lowByte v)).write (off + 1) (highByte v)))) := by
  rw [State.memWrite16, State.busWrite16, State.busAccess_ok h.1 (a := ())
    (d := ((s.device i).withMem (((s.device i).mem.write off (lowByte v)).write (off + 1) (highByte v))))
    (by simp [Device.write16, h.2.1, h.2.2])]
  rfl

/-- Writing to a ROM sets its `accessed` bit and nothing else (20_memory.md R43). -/
theorem State.memWrite8_rom {s : State} {addr i off : Nat} (h : s.RomAt addr i off) (v : Byte) :
    s.memWrite8 addr v = .ok () (s.touchAt addr) := by
  have hw : (s.device i).write off v = .ok () (s.device i).touch := by
    rcases (s.device i).write_cases off v with h1 | h1 | h1
    · exact h1.2
    · exact absurd ((s.device i).kind_ram_iff.1 h1.1) (by simp [h.2])
    · exact absurd ((s.device i).kind_ram_iff.1 h1.1) (by simp [h.2])
  rw [State.memWrite8, State.busWrite, State.busAccess_ok h.1 hw, State.touchAt_of_resolve h.1]
  rfl

theorem State.memWrite16_rom {s : State} {addr i off : Nat} (h : s.RomAt addr i off) (v : Word) :
    s.memWrite16 addr v = .ok () (s.touchAt addr) := by
  have hw : (s.device i).write16 off v (Config.wordWriteDraw s.draws) = .ok () (s.device i).touch := by
    rcases (s.device i).write16_cases off v (Config.wordWriteDraw s.draws) with h1 | h1 | h1 | h1
    · exact h1.2
    all_goals exact absurd ((s.device i).kind_ram_iff.1 h1.1) (by simp [h.2])
  rw [State.memWrite16, State.busWrite16,
    State.busAccess_ok (f := fun d off => d.write16 off v (Config.wordWriteDraw s.draws)) h.1 hw,
    State.touchAt_of_resolve h.1]
  rfl

/-! ## Fetches that succeed -/

theorem State.fetch8_of_peek {s : State} {b : Byte} (h : s.peek s.pc.toNat = some b) :
    s.fetch8 = .ok b ((s.touchAt s.pc.toNat).setPc (s.pc + 1#16)) := by
  rw [State.fetch8, State.memRead8_of_peek h]
  simp [State.advancePc]

theorem State.fetchInstruction_of_peek {s : State} {op : Byte} (h : s.peek s.pc.toNat = some op) :
    s.fetchInstruction = .ok op (((s.touchAt s.pc.toNat).setPc (s.pc + 1#16)).setIr op) := by
  rw [State.fetchInstruction, State.fetch8_of_peek h]; rfl

/-! ## Words and bytes -/

theorem getLsbD_joinBytes (lo hi : Byte) (i : Nat) :
    (joinBytes lo hi).getLsbD i = if i < 8 then lo.getLsbD i else hi.getLsbD (i - 8) := by
  show (hi ++ lo).getLsbD i = _
  rw [BitVec.getLsbD_append]

theorem getLsbD_lowByte (w : Word) (i : Nat) : (lowByte w).getLsbD i = (decide (i < 8) && w.getLsbD i) := by
  simp [lowByte, BitVec.getLsbD_extractLsb']

theorem getLsbD_highByte (w : Word) (i : Nat) : (highByte w).getLsbD i = (decide (i < 8) && w.getLsbD (8 + i)) := by
  simp [highByte, BitVec.getLsbD_extractLsb']

@[simp] theorem lowByte_joinBytes (lo hi : Byte) : lowByte (joinBytes lo hi) = lo := by
  refine BitVec.eq_of_getLsbD_eq fun i h => ?_
  rw [getLsbD_lowByte, getLsbD_joinBytes]; simp [h]

@[simp] theorem highByte_joinBytes (lo hi : Byte) : highByte (joinBytes lo hi) = hi := by
  refine BitVec.eq_of_getLsbD_eq fun i h => ?_
  rw [getLsbD_highByte, getLsbD_joinBytes]; simp [h]

@[simp] theorem joinBytes_lowByte_highByte (w : Word) : joinBytes (lowByte w) (highByte w) = w := by
  refine BitVec.eq_of_getLsbD_eq fun i h => ?_
  rw [getLsbD_joinBytes, getLsbD_lowByte, getLsbD_highByte]
  by_cases h8 : i < 8
  · simp [h8]
  · rw [if_neg h8, show 8 + (i - 8) = i by omega]
    simp [show i - 8 < 8 by omega]

end Sys2Proof.Machine
end

