-- ==== Sys2Proof/Laws/Step.lean ====
section
/-! SUPPORT. What a cycle, an interface operation and a step can do: the inversion lemmas that statements about every step
are derived from. -/

namespace Sys2Proof.Machine

/-! ## Decoding and executing -/

/-- Everything the decoding of an opcode can answer (30_encoding.md R86, R88). -/
theorem decodeOpcode_cases (p : Params) (op : Byte) :
    (op = p.opcLdaImm ∧
        decodeOpcode p op = some { opcode := op, mnemonic := .ldaImm, size := 2, cycles := p.cycLdaImm }) ∨
      (op ≠ p.opcLdaImm ∧ decodeOpcode p op = none) := by
  by_cases h : op = p.opcLdaImm
  · exact .inl ⟨h, by simp [decodeOpcode, dispatchTable, h]⟩
  · exact .inr ⟨h, by simp [decodeOpcode, dispatchTable, Ne.symm h]⟩

@[simp] theorem exec_ldaImm (imm : Byte) (s : State) :
    exec (.ldaImm imm) s = .next ((s.setA imm).setFr (loadFlags s.params imm s.fr)) := rfl

/-! ## Registers that memory accesses leave -/

theorem BusResult.settle_regs {α : Type} (dflt : α) {s : State} {r : BusResult α} (h : BusStep s r.state) :
    (r.settle dflt).state.pc = s.pc ∧ (r.settle dflt).state.sp = s.sp ∧ (r.settle dflt).state.ir = s.ir := by
  obtain ⟨ds, n, _, hs⟩ := h
  have h1 : r.state.pc = s.pc ∧ r.state.sp = s.sp ∧ r.state.ir = s.ir := by rw [hs]; exact ⟨rfl, rfl, rfl⟩
  unfold BusResult.settle
  split
  · exact h1
  · exact h1
  · split <;> exact h1

/-- A core read of a byte leaves PC, SP and IR. -/
theorem State.memRead8_regs (s : State) (addr : Nat) :
    (s.memRead8 addr).state.pc = s.pc ∧ (s.memRead8 addr).state.sp = s.sp ∧ (s.memRead8 addr).state.ir = s.ir :=
  BusResult.settle_regs _ (s.busRead_step addr)

/-- A core read of a word leaves PC, SP and IR. -/
theorem State.memRead16_regs (s : State) (addr : Nat) :
    (s.memRead16 addr).state.pc = s.pc ∧ (s.memRead16 addr).state.sp = s.sp ∧ (s.memRead16 addr).state.ir = s.ir :=
  BusResult.settle_regs _ (s.busRead16_step addr)

/-- A core write of a byte leaves PC, SP and IR. -/
theorem State.memWrite8_regs (s : State) (addr : Nat) (v : Byte) :
    (s.memWrite8 addr v).state.pc = s.pc ∧ (s.memWrite8 addr v).state.sp = s.sp ∧ (s.memWrite8 addr v).state.ir = s.ir :=
  BusResult.settle_regs _ (s.busWrite_step addr v)

/-- A core write of a word leaves PC, SP and IR. -/
theorem State.memWrite16_regs (s : State) (addr : Nat) (v : Word) :
    (s.memWrite16 addr v).state.pc = s.pc ∧ (s.memWrite16 addr v).state.sp = s.sp ∧
      (s.memWrite16 addr v).state.ir = s.ir :=
  BusResult.settle_regs _ (s.busWrite16_step addr v)

/-- `Fetch8` advances PC by 1 when it gives a byte and leaves it when it raises; SP and IR stay (40_cycle.md R100). -/
theorem State.fetch8_regs (s : State) :
    (∀ v t, s.fetch8 = .ok v t → t.pc = s.pc + 1#16 ∧ t.sp = s.sp ∧ t.ir = s.ir) ∧
      (∀ t, s.fetch8 = .raised t → t.pc = s.pc ∧ t.sp = s.sp ∧ t.ir = s.ir) := by
  have h := s.memRead8_regs s.pc.toNat
  unfold State.fetch8
  cases hr : s.memRead8 s.pc.toNat with
  | ok v t =>
    rw [hr] at h
    simp only [Res.state] at h
    refine ⟨fun w u hu => ?_, fun u hu => by cases hu⟩
    cases hu
    simp [State.advancePc, h]
  | raised t =>
    rw [hr] at h
    refine ⟨fun w u hu => (by cases hu), fun u hu => ?_⟩
    cases hu
    exact h

/-- `fetch_instruction` writes IR when it gives a byte and leaves PC and IR when it raises (40_cycle.md R104). -/
theorem State.fetchInstruction_regs (s : State) :
    (∀ op t, s.fetchInstruction = .ok op t → t.pc = s.pc + 1#16 ∧ t.sp = s.sp ∧ t.ir = op) ∧
      (∀ t, s.fetchInstruction = .raised t → t.pc = s.pc ∧ t.sp = s.sp ∧ t.ir = s.ir) := by
  have h := s.fetch8_regs
  unfold State.fetchInstruction
  cases hr : s.fetch8 with
  | ok v t =>
    refine ⟨fun w u hu => ?_, fun u hu => by cases hu⟩
    cases hu
    have := h.1 v t hr
    exact ⟨this.1, this.2.1, rfl⟩
  | raised t =>
    refine ⟨fun w u hu => (by cases hu), fun u hu => ?_⟩
    cases hu
    exact h.2 t hr

/-! ## The cycle -/

/-- Everything a cycle can do (40_cycle.md R101): it raised a fault on the way, or it ran LDA immediate. PC moved by 0, 1 or
2, SP stayed. -/
theorem cycle_cases {s t : State} (h : cycle s = .next t) :
    s.halted = false ∧
      ((OpStep s t ∧ t.fault.isSome = true ∧ t.sp = s.sp ∧ (t.pc = s.pc ∨ t.pc = s.pc + 1#16)) ∨
        ∃ imm t0, OpStep s t0 ∧ t0.fault = s.fault ∧ t0.ir = s.params.opcLdaImm ∧ t0.sp = s.sp ∧
          t0.pc = s.pc + 2#16 ∧ t = (t0.setA imm).setFr (loadFlags s.params imm s.fr)) := by
  unfold cycle at h
  split at h
  · cases h
  · next hh =>
    refine ⟨by simpa using hh, ?_⟩
    have hi := s.fetchInstruction_steps
    have hregs := s.fetchInstruction_regs
    cases hf : s.fetchInstruction with
    | raised u =>
      rw [hf] at h hi
      cases h
      have := hregs.2 _ hf
      exact .inl ⟨hi.1, hi.2, this.2.1, .inl this.1⟩
    | ok op u =>
      rw [hf] at h hi
      obtain ⟨hpc, hsp, hir⟩ := hregs.1 op u hf
      have hparams : u.params = s.params := by
        obtain ⟨_, _, _, _, _, _, _, _, _, _, hu⟩ := hi.1; rw [hu]
      have hfr : u.fr = s.fr := by
        obtain ⟨_, _, _, _, _, _, _, _, _, _, hu⟩ := hi.1; rw [hu]
      simp only [Res.andThen, runEntry] at h
      rcases decodeOpcode_cases u.params op with ⟨hop, hd⟩ | ⟨hop, hd⟩
      · rw [hd] at h
        simp only [Mnemonic.format, State.fetchOperand] at h
        have h8 := u.fetch8_steps
        have h8r := u.fetch8_regs
        cases hg : u.fetch8 with
        | raised w =>
          rw [hg] at h h8
          cases h
          have := h8r.2 _ hg
          exact .inl ⟨hi.1.trans h8.1, h8.2, this.2.1.trans hsp, .inr (this.1.trans hpc)⟩
        | ok v w =>
          rw [hg] at h h8
          have hw : w.params = u.params ∧ w.fr = u.fr := by
            obtain ⟨_, _, _, _, _, _, _, _, _, _, hu⟩ := h8.1; rw [hu]; exact ⟨rfl, rfl⟩
          have hr := h8r.1 v w hg
          simp only [Mnemonic.instr, exec_ldaImm, Host.Outcome.next.injEq] at h
          refine .inr ⟨v, w, hi.1.trans h8.1, h8.2.trans hi.2, ?_, hr.2.1.trans hsp, ?_, ?_⟩
          · rw [hr.2.2, hir, hop, hparams]
          · rw [hr.1, hpc, BitVec.add_assoc]; rfl
          · rw [← h, hw.1, hw.2, hparams, hfr]
      · rw [hd] at h
        simp only [State.raise, Host.Outcome.next.injEq] at h
        subst h
        exact .inl ⟨hi.1.trans (OpStep.setFault u (f := .unknownInstruction op s.pc) (fun _ _ hc => by cases hc)), rfl,
          hsp, .inr hpc⟩

/-- A cycle never answers the outcome `fault`. -/
theorem cycle_ne_fault (s : State) (f : Fault) : cycle s ≠ .fault f := by
  unfold cycle
  split
  · simp
  · cases s.fetchInstruction with
    | raised u => simp [Res.andThen]
    | ok op u =>
      simp only [Res.andThen, runEntry]
      rcases decodeOpcode_cases u.params op with ⟨_, hd⟩ | ⟨_, hd⟩ <;> rw [hd]
      · simp only [Mnemonic.format, State.fetchOperand]
        cases u.fetch8 <;> simp [Mnemonic.instr]
      · simp [State.raise]

/-- A cycle is refused exactly when the core is halted, as `Halted` (60_exceptions.md R147). -/
theorem cycle_refused_iff (s : State) (r : Refusal) : cycle s = .refused r ↔ s.halted = true ∧ r = .halted := by
  unfold cycle
  split
  · next h => simp [h, eq_comm]
  · next h =>
    simp only [h, Bool.false_eq_true, false_and, iff_false]
    cases s.fetchInstruction with
    | raised u => simp [Res.andThen]
    | ok op u =>
      simp only [Res.andThen, runEntry]
      rcases decodeOpcode_cases u.params op with ⟨_, hd⟩ | ⟨_, hd⟩ <;> rw [hd]
      · simp only [Mnemonic.format, State.fetchOperand]
        cases u.fetch8 <;> simp [Mnemonic.instr]
      · simp [State.raise]

/-! ## Interface operations -/

theorem State.handleInterrupts_steps (s : State) : s.handleInterrupts.Steps s := by
  refine (s.memRead8_steps _).bind fun ie t _ => ?_
  split
  · exact ⟨OpStep.refl t, rfl⟩
  · refine (t.memRead8_steps _).bind fun pend u _ => ?_
    split
    · exact ⟨OpStep.refl u, rfl⟩
    · split
      · exact ⟨OpStep.refl u, rfl⟩
      · next l _ => exact (u.takeInterrupt_steps l).bind fun _ w _ => ⟨OpStep.refl w, rfl⟩

theorem State.isInterruptRequested_steps (s : State) (l : Line) : (s.isInterruptRequested l).Steps s :=
  (s.memRead8_steps _).bind fun _ t _ => ⟨OpStep.refl t, rfl⟩

/-- What one interface operation leaves, before its reply is noted. -/
def CallStep (c : HostCall) (s t : State) : Prop :=
  match c with
  | .cycle => (s.halted = true ∧ t = s) ∨ cycle s = .next t
  | .handleInterrupts => (s.halted = true ∧ t = s) ∨ (s.halted = false ∧ OpStep s t)
  | .requestInterrupt _ => t = s ∨ (s.halted = false ∧ OpStep s t)
  | .isInterruptRequested _ => t = s ∨ (s.halted = false ∧ OpStep s t)
  | .clearInterruptFlag _ => t = s ∨ (s.halted = false ∧ OpStep s t)
  | .reset => t = s.doReset
  | .map label device start size remap => t = s ∨ ∃ tok, s.busMap label device start size remap = .ok (tok, t)
  | .unmap token => t = s.busUnmap token
  | .load data addr => t = s ∨ s.busLoad data addr = .ok t
  | .read _ => BusStep s t
  | .read16 _ => BusStep s t
  | .write _ _ => BusStep s t
  | .write16 _ _ => BusStep s t
  | .byteLength => t = s
  | .inspect _ _ => t = s

/-- A core operation as a host call: refused while halted, else it runs. -/
theorem State.coreCall_cases (s : State) {α : Type} (body : State → Res α) (reply : α → HostReply)
    (hb : (body s).Steps s) :
    ∃ r t, s.coreCall body reply = .next (t.setReply (some r)) ∧
      ((s.halted = true ∧ t = s) ∨ (s.halted = false ∧ OpStep s t)) := by
  unfold State.coreCall
  split
  · next h => exact ⟨.error .halted, s, rfl, .inl ⟨h, rfl⟩⟩
  · next h =>
    cases hr : body s with
    | ok a t => rw [hr] at hb; exact ⟨reply a, t, rfl, .inr ⟨by simpa using h, hb.1⟩⟩
    | raised t => rw [hr] at hb; exact ⟨.raised, t, rfl, .inr ⟨by simpa using h, hb.1⟩⟩

theorem State.lineCall_cases (s : State) {α : Type} (line : Int) (body : State → Line → Res α) (reply : α → HostReply)
    (hb : ∀ l, (body s l).Steps s) :
    ∃ r t, s.lineCall line body reply = .next (t.setReply (some r)) ∧ (t = s ∨ (s.halted = false ∧ OpStep s t)) := by
  unfold State.lineCall
  split
  · exact ⟨_, s, rfl, .inl rfl⟩
  · next l _ =>
    obtain ⟨r, t, h, hc⟩ := s.coreCall_cases (fun s1 => body s1 l) reply (hb l)
    exact ⟨r, t, h, hc.imp (fun h => h.2) id⟩

theorem BusResult.poke_cases {α : Type} (reply : α → HostReply) (r : BusResult α) :
    ∃ a, r.poke reply = .next (r.state.setReply (some a)) := by
  cases r with
  | ok a s => exact ⟨_, rfl⟩
  | fail f s => exact ⟨_, rfl⟩

/-- An interface operation always answers a next state: what the operation leaves, with its reply noted. -/
theorem hostCall_cases (c : HostCall) (s : State) :
    ∃ r t, hostCall c s = .next (t.setReply (some r)) ∧ CallStep c s t := by
  cases c with
  | cycle =>
    simp only [hostCall, State.cycleCall]
    split
    · next h => exact ⟨_, s, rfl, .inl ⟨h, rfl⟩⟩
    · next h =>
      cases hc : cycle s with
      | next t => exact ⟨_, t, rfl, .inr hc⟩
      | fault f => exact absurd hc (cycle_ne_fault s f)
      | refused r => exact absurd ((cycle_refused_iff s r).1 hc).1 h
  | handleInterrupts => exact s.coreCall_cases _ _ s.handleInterrupts_steps
  | requestInterrupt line => exact s.lineCall_cases line _ _ s.ifSet_steps
  | isInterruptRequested line => exact s.lineCall_cases line _ _ s.isInterruptRequested_steps
  | clearInterruptFlag line => exact s.lineCall_cases line _ _ s.ifClear_steps
  | reset => exact ⟨_, _, rfl, rfl⟩
  | map label device start size remap =>
    simp only [hostCall]
    split
    · next tok t h => exact ⟨_, t, rfl, .inr ⟨tok, h⟩⟩
    · exact ⟨_, s, rfl, .inl rfl⟩
  | unmap token => exact ⟨_, _, rfl, rfl⟩
  | load data addr =>
    simp only [hostCall]
    split
    · next t h => exact ⟨_, t, rfl, .inr h⟩
    · exact ⟨_, s, rfl, .inl rfl⟩
  | read addr =>
    obtain ⟨a, h⟩ := (s.busRead addr).poke_cases .byte
    exact ⟨a, _, h, s.busRead_step addr⟩
  | read16 addr =>
    obtain ⟨a, h⟩ := (s.busRead16 addr).poke_cases .word
    exact ⟨a, _, h, s.busRead16_step addr⟩
  | write addr v =>
    obtain ⟨a, h⟩ := (s.busWrite addr (BitVec.ofInt 8 v)).poke_cases (fun _ => .done)
    exact ⟨a, _, h, s.busWrite_step addr _⟩
  | write16 addr v =>
    obtain ⟨a, h⟩ := (s.busWrite16 addr (BitVec.ofInt 16 v)).poke_cases (fun _ => .done)
    exact ⟨a, _, h, s.busWrite16_step addr _⟩
  | byteLength => exact ⟨_, _, rfl, rfl⟩
  | inspect addr count => exact ⟨_, _, rfl, rfl⟩

/-! ## The step -/

/-- Everything a step that answers a next state can have done: one cycle with no call queued, or the first queued call. -/
theorem step_cases {s t : State} (h : step s = .next t) :
    (s.hostCalls = [] ∧ cycle s = .next t) ∨
      ∃ c cs r t0, s.hostCalls = c :: cs ∧ CallStep c (s.setHostCalls cs) t0 ∧ t = t0.setReply (some r) := by
  unfold step at h
  split at h
  · next hc => exact .inl ⟨hc, h⟩
  · next c cs hc =>
    obtain ⟨r, t0, hh, hcall⟩ := hostCall_cases c (s.setHostCalls cs)
    rw [hh] at h
    exact .inr ⟨c, cs, r, t0, hc, hcall, (Host.Outcome.next.inj h).symm⟩

end Sys2Proof.Machine
end

