-- ==== Sys2Proof/Laws/Access.lean ====
section
/-! SUPPORT. What memory reads after an access, the accesses that fail, and what reset leaves in a device. -/

namespace Sys2Proof.Machine

/-! ## Memory after one device changed -/

theorem State.setDevice_of_le {s : State} {i : Nat} (h : s.devices.length ≤ i) (d : Device) : s.setDevice i d = s := by
  simp [State.setDevice, List.set_eq_of_length_le h]

/-- Every byte after one device is replaced by one of the same capacity. -/
theorem State.peek_setDevice {s : State} {i : Nat} {d : Device} (hi : i < s.devices.length)
    (hc : d.capacity = (s.device i).capacity) {addr j o : Nat} (h : s.resolve addr = some (j, o)) :
    (s.setDevice i d).peek addr =
      if j = i then (if o < (s.device i).capacity then some (d.mem.read o) else none) else s.peek addr := by
  rw [State.peek_of_resolve (by simpa using h), State.peek_of_resolve h]
  by_cases hj : j = i
  · subst hj; simp [State.device_setDevice_self hi, hc]
  · simp [hj, State.device_setDevice_ne hj]

/-- Every byte after one device's bytes are replaced. -/
theorem State.peek_withMem {s : State} {i : Nat} (hi : i < s.devices.length) (m : Memory) {addr j o : Nat}
    (h : s.resolve addr = some (j, o)) :
    (s.setDevice i ((s.device i).withMem m)).peek addr =
      if j = i then (if o < (s.device i).capacity then some (m.read o) else none) else s.peek addr :=
  State.peek_setDevice (d := (s.device i).withMem m) hi rfl h

theorem SameBytesBut.refl (s : State) (stored : Nat → Nat → Prop) : SameBytesBut s s stored :=
  ⟨fun _ _ => rfl, fun _ => ⟨rfl, rfl, fun _ _ => rfl⟩⟩

/-- A larger set of stored bytes says less. -/
theorem SameBytesBut.mono {s t : State} {p q : Nat → Nat → Prop} (h : SameBytesBut s t p) (hpq : ∀ j o, p j o → q j o) :
    SameBytesBut s t q :=
  ⟨fun addr ha => h.1 addr fun i off hr hp => ha i off hr (hpq i off hp),
    fun j => ⟨(h.2 j).1, (h.2 j).2.1, fun o ho => (h.2 j).2.2 o fun hp => ho (hpq j o hp)⟩⟩

/-- One operation after another, on one region list. -/
theorem SameBytesBut.trans {s t u : State} {p : Nat → Nat → Prop} (h : SameBytesBut s t p) (h' : SameBytesBut t u p)
    (hr : t.regions = s.regions) : SameBytesBut s u p := by
  have hres : ∀ addr, t.resolve addr = s.resolve addr := fun addr => by simp [State.resolve, hr]
  exact ⟨fun addr ha => (h'.1 addr fun i off hi => ha i off (by rw [← hres]; exact hi)).trans (h.1 addr ha),
    fun j => ⟨(h'.2 j).1.trans (h.2 j).1, (h'.2 j).2.1.trans (h.2 j).2.1,
      fun o ho => ((h'.2 j).2.2 o ho).trans ((h.2 j).2.2 o ho)⟩⟩

/-- The devices decide: with one region list, equal device bytes read equal through the bus. -/
theorem SameBytesBut.of_devices {s t : State} {stored : Nat → Nat → Prop} (hr : t.regions = s.regions)
    (hd : ∀ j, (t.device j).kind = (s.device j).kind ∧ (t.device j).capacity = (s.device j).capacity ∧
      ∀ o, ¬ stored j o → (t.device j).mem.read o = (s.device j).mem.read o) : SameBytesBut s t stored := by
  refine ⟨fun addr h => ?_, hd⟩
  have hres : t.resolve addr = s.resolve addr := by simp [State.resolve, hr]
  cases hs : s.resolve addr with
  | none => rw [State.peek_none_of_unmapped hs, State.peek_none_of_unmapped (hres.trans hs)]
  | some p =>
    obtain ⟨j, o⟩ := p
    rw [State.peek_of_resolve hs, State.peek_of_resolve (hres.trans hs), (hd j).2.1, (hd j).2.2 o (h j o hs)]

/-- One device's bytes change inside a set of offsets: so does memory. -/
theorem State.sameBytesBut_setDevice {s : State} {i : Nat} {d : Device} {stored : Nat → Nat → Prop}
    (hk : d.kind = (s.device i).kind) (hc : d.capacity = (s.device i).capacity)
    (hr : ∀ o, ¬ stored i o → d.mem.read o = (s.device i).mem.read o) : SameBytesBut s (s.setDevice i d) stored := by
  refine .of_devices rfl fun j => ?_
  rw [State.device_setDevice]
  split
  · next h => rw [h.1]; exact ⟨hk, hc, hr⟩
  · exact ⟨rfl, rfl, fun _ _ => rfl⟩

/-! ## Accesses past a device's capacity -/

theorem State.memRead8_past {s : State} {addr i off : Nat} (h : s.resolve addr = some (i, off))
    (hc : (s.device i).capacity ≤ off) :
    s.memRead8 addr = (BusResult.fail (.device
      { addr := addr, info := { offset := off, width := .byte, dir := .read } }) s).settle 0#8 := by
  rw [State.memRead8, State.busRead, State.busAccess_fail (e := { offset := off, width := .byte, dir := .read }) h
    (d := s.device i) (by unfold Device.read; rw [if_neg (by omega)]), State.setDevice_device]

theorem State.memRead16_past {s : State} {addr i off : Nat} (h : s.resolve addr = some (i, off))
    (hc : (s.device i).capacity ≤ off + 1) :
    s.memRead16 addr = (BusResult.fail (.device
      { addr := addr, info := { offset := off, width := .word, dir := .read } }) s).settle 0#16 := by
  rw [State.memRead16, State.busRead16, State.busAccess_fail (e := { offset := off, width := .word, dir := .read }) h
    (d := s.device i) (by unfold Device.read16; rw [if_neg (by omega)]), State.setDevice_device]

theorem State.memWrite8_past {s : State} {addr i off : Nat} (v : Byte) (h : s.resolve addr = some (i, off))
    (hk : (s.device i).kind = .ram) (hc : (s.device i).capacity ≤ off) :
    s.memWrite8 addr v = (BusResult.fail (.device
      { addr := addr, info := { offset := off, width := .byte, dir := .write } }) s).settle () := by
  rw [State.memWrite8, State.busWrite, State.busAccess_fail (e := { offset := off, width := .byte, dir := .write }) h
    (d := s.device i) (by unfold Device.write; rw [hk]; simp only; rw [if_neg (by omega)]), State.setDevice_device]

/-- Under `halt` a device failure is raised (60_exceptions.md R142). -/
theorem BusResult.settle_halt {α : Type} (dflt : α) (r : DeviceReport) {s : State} (h : s.params.policy = .halt) :
    (BusResult.fail (.device r) s : BusResult α).settle dflt = .raised (s.setFault (some (.deviceFault r))) := by
  simp [BusResult.settle, h, State.raise]

/-- Under `sentinel` a device failure is logged and gives the default (60_exceptions.md R142). -/
theorem BusResult.settle_sentinel {α : Type} (dflt : α) (r : DeviceReport) {s : State}
    (h : s.params.policy = .sentinel) :
    (BusResult.fail (.device r) s : BusResult α).settle dflt = .ok dflt (s.setDevlog (s.devlog ++ [r])) := by
  simp [BusResult.settle, h]

/-! ## Words as numbers -/

theorem lowByte_eq_ofNat (w : Word) : lowByte w = BitVec.ofNat 8 (w.toNat % 256) := by
  apply BitVec.eq_of_toNat_eq; simp [lowByte]

theorem highByte_eq_ofNat (w : Word) : highByte w = BitVec.ofNat 8 (w.toNat / 256) := by
  apply BitVec.eq_of_toNat_eq; simp [highByte, Nat.shiftRight_eq_div_pow]

theorem joinBytes_eq_or (lo hi : Byte) : joinBytes lo hi = (hi.zeroExtend 16 <<< 8 ||| lo.zeroExtend 16) := by
  refine BitVec.eq_of_getLsbD_eq fun i h => ?_
  rw [getLsbD_joinBytes]
  by_cases h8 : i < 8
  · simp [h8, h]
  · have : lo.getLsbD i = false := BitVec.getLsbD_of_ge _ _ (by omega)
    simp only [BitVec.truncate_eq_setWidth, BitVec.getLsbD_or, BitVec.getLsbD_shiftLeft, BitVec.getLsbD_setWidth, h, h8,
      this, decide_true, decide_false, Bool.not_false, Bool.true_and, Bool.and_false, Bool.or_false, if_false]
    simp [show i - 8 < 16 by omega]

/-! ## Single bits -/

/-- One bit of a mask of one bit. -/
theorem getLsbD_bitMask (i k : Fin 8) : (bitMask i).getLsbD k.val = decide (k = i) := by
  revert i k; decide

/-! ## Reset -/

@[simp] theorem Device.reset_capacity (d : Device) : d.reset.capacity = d.capacity := by
  unfold Device.reset; split <;> rfl

@[simp] theorem Device.reset_mem (d : Device) : d.reset.mem = [] := by unfold Device.reset; split <;> rfl

@[simp] theorem Device.reset_romAccessed (d : Device) : d.reset.romAccessed = false := by
  cases h : d.kind <;> simp [Device.reset, Device.romAccessed, h]

theorem State.mapped_of_resolve {s : State} {addr i off : Nat} (h : s.resolve addr = some (i, off)) :
    s.mapped i = true := by
  simp only [State.resolve, Option.map_eq_some_iff, Prod.mk.injEq, findRegion] at h
  obtain ⟨r, hr, rfl, rfl⟩ := h
  simp only [State.mapped, List.any_eq_true]
  exact ⟨r, List.mem_of_find?_eq_some hr, by simp⟩

/-- Every device after a reset: a mapped one is reset, any other is as before (20_memory.md R62). -/
theorem State.doReset_device (s : State) (i : Nat) :
    s.doReset.device i = if s.mapped i then (s.device i).reset else s.device i := by
  have h : s.doReset.devices = s.devices.mapIdx (fun i d => if s.mapped i then d.reset else d) := rfl
  simp only [State.device, h, List.getD_eq_getElem?_getD, List.getElem?_mapIdx]
  cases s.devices[i]? with
  | none => simp [Device.reset, Device.missing]
  | some d => simp

@[simp] theorem State.doReset_resolve (s : State) (addr : Nat) : s.doReset.resolve addr = s.resolve addr := rfl

end Sys2Proof.Machine
end

