-- ==== Sys2Proof/Laws/Decode.lean ====
section
/-! SUPPORT. The decoder on a sequence that is not empty, in one equation. -/

namespace Sys2Proof

/-- What the decoder answers on an opcode byte and the bytes after it (30_encoding.md R81, R84). -/
theorem decode_cons (p : Params) (op : Byte) (bs : List Byte) :
    decode p (op :: bs) =
      if op = p.opcLdaImm then
        match bs with
        | [] => .truncated
        | b :: rest => .instr (.ldaImm b) rest
      else .unknown op := by
  simp only [decode]
  rcases Machine.decodeOpcode_cases p op with ⟨h, hd⟩ | ⟨h, hd⟩
  · rw [hd, if_pos h]
    cases bs <;> rfl
  · rw [hd, if_neg h]

end Sys2Proof
end

