-- ==== Sys2Proof/Laws/PerInstr.lean ====
section
/-! SUPPORT. Laws stated instruction by instruction. -/

/-- The bytes of an instruction: the opcode of a dispatch-table entry, and as many bytes as that entry's format has
(30_encoding.md R83, R84). -/
def Sys2Proof.Laws.EncodeShape.Statement (i : Sys2Proof.Instr) : Prop :=
  ∀ p : Sys2Proof.Params, (Sys2Proof.encode p i).length = i.mnemonic.format.size ∧
    ∃ e ∈ Sys2Proof.dispatchTable p, e.mnemonic = i.mnemonic ∧ (Sys2Proof.encode p i).head? = some e.opcode

theorem Sys2Proof.Laws.EncodeShape.ldaImm (imm : Sys2Proof.Byte) : Sys2Proof.Laws.EncodeShape.Statement (.ldaImm imm) :=
  fun _ => ⟨rfl, _, List.mem_cons_self, rfl, rfl⟩
end

