-- ==== Sys2Proof/Tests/Slice0.lean ====
section
/-! SUPPORT. Tests: well-formedness, decoding, the worked examples of spec/95_test_vectors.md that show a bug best, and for
every statement with hypotheses a concrete state and operands that meet them. Expected results are the spec's or
calculated from its rules by hand. -/

namespace Sys2Proof.Tests

open Sys2Proof.Machine

/-! ## Small states -/

/-- The test configuration right after reset, with bytes placed at an address. -/
def tc (addr : Word) (bs : List Byte) : State := State.reset.placeBytes addr bs

/-- The same under the policy `sentinel`. -/
def soft (s : State) : State := { s with params := { s.params with policy := .sentinel } }

/-- One more RAM, of capacity 0x10, mapped at 0xC100 (95_test_vectors.md, the map "edge"). -/
def edge (s : State) : State :=
  { s.addDevice false 0x10 with
    regions := { token := 4, label := "edge", device := 4, start := 0xC100, last := 0xC10F, remap := true } :: s.regions
    nextToken := 5 }

/-- The state with host calls queued. -/
def calls (s : State) (cs : List HostCall) : State := { s with hostCalls := cs }

/-- IE and IF at the given bytes, vector 1 at 0x9000. -/
def pending (ie pend : Byte) : State := (tc 0xFF00 [ie, pend]).placeBytes 0xFFE2 [0x00, 0x90]

/-- A core halted by an unmapped access. -/
def halted : State := { State.reset with fault := some (.unmappedAddress 0xD000) }

/-- Whether a step answers a next state with a property. -/
def stepHas (s : State) (p : State → Bool) : Bool :=
  match step s with
  | .next t => p t
  | .fault _ => false
  | .refused _ => false

/-! ## Well-formedness: what the checks refuse -/

/-- Two flags on one bit (10_state.md R14). -/
theorem test_params_same_flag_refused : ({ Params.tc with flagN := 1 } : Params).wf = false := by decide

/-- A frame pointer constant that differs from the stack pointer's (70_reset_and_hazards.md R181). -/
theorem test_params_fp_not_sp_refused : ({ Params.tc with fpReset := 0x01FF } : Params).wf = false := by decide

theorem test_params_tc_accepted : Params.tc.wf = true := by decide

/-- Two entries with one opcode (30_encoding.md R82). -/
theorem test_table_same_opcode_refused :
    tableWf [⟨0xA9, .ldaImm, 2, 0⟩, ⟨0x10, .ldaImm, 2, 0⟩, ⟨0xA9, .ldaImm, 2, 4⟩] = false := by decide

/-- A size that does not count the opcode byte (30_encoding.md R82). -/
theorem test_table_wrong_size_refused : tableWf [⟨0xA9, .ldaImm, 1, 0⟩] = false := by decide

/-- Every instruction term is well-formed: an operand holds bytes only (30_encoding.md R85). -/
theorem test_every_instr_wf : ∀ imm : Byte, (Instr.ldaImm imm).wf = true := fun _ => rfl

/-! ## Decoding -/

/-- LDA #$42, its bytes written out bit by bit: opcode 1010 1001, immediate 0100 0010 (30_encoding.md R86). -/
theorem test_decode_lda_imm :
    decode Params.tc [0b10101001, 0b01000010] = .instr (.ldaImm 0b01000010) [] := by decide

/-- The same as a number: the first byte is the low one. -/
theorem test_decode_table_word :
    decodeTableWord 16 0x42A9 = some (.ldaImm 0x42) ∧ decodeTableWord 16 0xA942 = none ∧
      decodeTableWord 8 0xA9 = some (.ldaImm 0x00) := by decide

/-! ## LDA immediate and the cycle -/

/-- 95_test_vectors.md 2.9: FR = 0x7D, imm 0x80 gives FR = 0xFD; the N bit is set, Z is not. -/
theorem test_lda_sets_n_keeps_rest :
    stepHas ({ State.reset with fr := 0x7D }.withFetchWord 16 0x80A9)
      (fun t => t.a == 0x80 && t.fr == 0xFD && t.pc == 0x8002 && t.ir == 0xA9) = true := by decide

/-- 95_test_vectors.md P3: LDA #$7F at 0xFFFE runs across the wrap of PC; a value that sets no flag leaves
FR. -/
theorem test_lda_across_pc_wrap :
    stepHas { tc 0xFFFE [0xA9, 0x7F] with pc := 0xFFFE, fr := 0x80 }
      (fun t => t.a == 0x7F && t.fr == 0x80 && t.pc == 0x0000) = true := by decide

/-- 95_test_vectors.md RS2: with nothing loaded the first cycle meets opcode 0x00. -/
theorem test_reset_cycle_unknown :
    stepHas State.reset (fun t => t.fault == some (.unknownInstruction 0x00 0x8000) && t.ir == 0x00 && t.pc == 0x8001) =
      true := by decide

/-! ## Operations -/

/-- 92_eei_decisions.md D37: a host's value is masked to the access's width. -/
theorem test_poke_masks :
    stepHas (calls State.reset [.write 0x0010 0x1FF, .write16 0x0020 (-2), .read16 0x0020])
      (fun t => t.peek 0x0010 == some 0xFF && t.peek 0x0011 == some 0x00 &&
        stepHas t (fun u => stepHas u (fun v => v.reply == some (.word 0xFFFE)))) = true := by decide


/-- 95_test_vectors.md W1: writes are masked to the register's width. -/
theorem test_register_masking :
    (State.reset.regWrite .a 0x1FF).a = 0xFF ∧ (State.reset.regWrite .a (-128)).a = 0x80 ∧
      (State.reset.regWrite .sp (-2)).sp = 0xFFFE ∧ (State.reset.regWrite (.gpr 0) 0x1AB).regRead (.gpr 0) = some 0xAB := by
  decide

/-- 92_eei_decisions.md D32: making the devices, mapping them and resetting gives the state right after reset. -/
theorem test_boot :
    let s := { State.reset with regions := [], devices := [], nextToken := 0 }
    let s := (((s.addDevice false 0x8000).addDevice true 0x4000).addDevice false 0x10).addDevice false 0x100
    let s := calls s [.map "ram" 0 0x0000 0x8000 true, .map "rom" 1 0x8000 0x4000 true,
      .map "tiny" 2 0xC000 0x20 true, .map "io" 3 0xFF00 0x100 true, .reset]
    stepHas s (fun s => stepHas s (fun s => stepHas s (fun s => stepHas s (fun s => stepHas s (fun s =>
      decide ({ s with reply := none } = State.reset)))))) = true := by decide

/-- 95_test_vectors.md S1, S9: a push writes low byte first and drops SP; a pop at 0xFFFE reads at the wrapped SP. -/
theorem test_push_pop :
    (State.reset.push 0x1234).state.peek 0x1FE = some 0x34 ∧ (State.reset.push 0x1234).state.peek 0x1FF = some 0x12 ∧
      (State.reset.push 0x1234).state.sp = 0x01FC ∧
      { tc 0x0000 [0xCD, 0xAB] with sp := 0xFFFE }.pop =
        .ok 0xABCD { tc 0x0000 [0xCD, 0xAB] with sp := 0x0000 } := by decide

/-- 95_test_vectors.md I4: line 0 is pending but disabled, so line 1 is taken. -/
theorem test_dispatch_lowest_enabled :
    stepHas (calls (pending 0x06 0x07) [.handleInterrupts])
      (fun t => t.reply == some (.line (some 1)) && t.pc == 0x9000 && t.sp == 0x01FC && t.peek 0xFF01 == some 0x05 &&
        t.peek 0x01FE == some 0x00 && t.peek 0x01FF == some 0x80) = true := by decide

/-- 95_test_vectors.md I19: the stack overlaps IE and IF; the scan used the bytes read before the push, the clear reads IF
afresh. -/
theorem test_dispatch_stack_over_if :
    stepHas (calls { (tc 0xFF00 [0x01, 0x01]).placeBytes 0xFFE0 [0x00, 0x81] with sp := 0xFF00 } [.handleInterrupts])
      (fun t => t.reply == some (.line (some 0)) && t.pc == 0x8100 && t.sp == 0xFEFE && t.peek 0xFF00 == some 0x00 &&
        t.peek 0xFF01 == some 0x80) = true := by decide

/-- 95_test_vectors.md P4b: under `sentinel` the failing fetch gives opcode 0x00 and a log entry. -/
theorem test_sentinel_fetch :
    stepHas (soft { State.reset with pc := 0xC010 })
      (fun t => t.fault == some (.unknownInstruction 0x00 0xC010) && t.pc == 0xC011 &&
        t.devlog == [⟨0xC010, ⟨0x10, .byte, .read⟩⟩]) = true := by decide

/-- 95_test_vectors.md P5: a ROM read by the host refuses the next load. -/
theorem test_rom_load_rejected :
    stepHas (calls (tc 0x8000 [0xA9, 0x11]) [.read 0x8000, .load [0xA9, 0x22] 0x8000])
      (fun t => t.reply == some (.byte 0xA9) &&
        stepHas t (fun u => u.reply == some (.error .romLoadRejected) && u.peek 0x8001 == some 0x11)) = true := by decide

/-- 95_test_vectors.md W2: a region mapped later shadows, and unmapping it uncovers what it hid. -/
theorem test_shadowing :
    stepHas (calls (edge State.reset) [.map "shadow" 4 0x0100 0x10 true, .write 0x0105 0x11, .unmap 5])
      (fun t => t.reply == some (.token 5) && stepHas t (fun u => u.peek 0x0105 == some 0x11 && u.peek 0x0110 == some 0 &&
        stepHas u (fun v => v.peek 0x0105 == some 0 && v.regions == t.regions.tail))) = true := by decide

/-! ## Witnesses: states and operands that meet the hypotheses of the statements

Named `witness_<statement>`; a statement with clauses has each clause met, at a boundary value where the clause has a
range. A statement that is an equivalence, or holds of every state and operand, needs none. -/

theorem witness_OtherOpcodesAreUnknown :
    decode Params.tc [0xA8, 0x00] = .unknown 0xA8 ∧ (0xA8 : Byte) ≠ Params.tc.opcLdaImm := by decide

theorem witness_RegisterWritesAreMasked :
    State.reset.regWidth .fr = some 8 ∧ State.reset.regWidth .pc = some 16 ∧ State.reset.regWidth (.gpr 3) = some 8 := by
  decide

theorem witness_LdaImmCycle :
    let s := tc 0x8000 [0xA9, 0x80]
    s.Running ∧ s.peek s.pc.toNat = some s.params.opcLdaImm ∧ s.peek (s.pc + 1#16).toNat = some 0x80 := by decide

theorem witness_StepRunsDecodedInstruction :
    let s := tc 0x8000 [0xA9, 0x80]
    s.Running ∧ s.peek s.pc.toNat = some 0xA9 ∧ s.peek (s.pc + 1#16).toNat = some 0x80 ∧
      decode s.params [0xA9, 0x80] = .instr (.ldaImm 0x80) [] ∧ (Instr.ldaImm 0x80).wf = true := by decide

theorem witness_UnknownOpcodeRaises :
    State.reset.Running ∧ State.reset.peek State.reset.pc.toNat = some 0x00 ∧
      (0x00 : Byte) ≠ State.reset.params.opcLdaImm := by decide

theorem witness_OpcodeFetchFaults :
    let u := { State.reset with pc := 0xD000 }
    let d := { State.reset with pc := 0xC010 }
    u.Running ∧ u.resolve u.pc.toNat = none ∧
      d.Running ∧ d.resolve d.pc.toNat = some (2, 0x10) ∧ (d.device 2).capacity ≤ 0x10 ∧ d.params.policy = .halt ∧
      (soft d).Running ∧ (soft d).params.policy = .sentinel ∧ (soft d).params.opcLdaImm ≠ 0#8 := by decide

theorem witness_OperandFetchFaults :
    let u := { (edge State.reset).placeByte 0xC10F 0xA9 with pc := 0xC10F }
    let d := { tc 0xC00F [0xA9] with pc := 0xC00F }
    u.Running ∧ u.peek u.pc.toNat = some u.params.opcLdaImm ∧ u.resolve (u.pc + 1#16).toNat = none ∧
      d.Running ∧ d.peek d.pc.toNat = some d.params.opcLdaImm ∧ d.resolve (d.pc + 1#16).toNat = some (2, 0x10) ∧
      (d.device 2).capacity ≤ 0x10 ∧ d.params.policy = .halt ∧ (soft d).Running ∧ (soft d).params.policy = .sentinel := by
  decide

theorem witness_WordFetchAndPeek :
    let w := { State.reset with pc := 0xFFFE }
    w.resolve w.pc.toNat = some (3, 0xFE) ∧ 0xFE + 1 < (w.device 3).capacity ∧ w.peek w.pc.toNat = some 0x00 ∧
      { State.reset with pc := 0xD000 }.resolve 0xD000 = none := by decide

theorem witness_MapShadowsEarlierRegions :
    (0 : Nat) = 0 ∧ (1 : Nat) ≠ 0 ∧ 3 < State.reset.devices.length ∧ 0x0100 ≤ 0x0100 ∧ 0x0100 < 0x0100 + 1 := by decide

/-- The region in the middle of the list has token 2; no region has token 4. -/
theorem witness_UnmapRemovesItsRegion :
    State.reset.Inv ∧ (∃ r ∈ State.reset.regions, r.token = 2) ∧ (∀ r ∈ State.reset.regions, r.token ≠ 4) ∧
      ∃ t, State.reset.busMap "shadow" 2 0x0100 0x10 true = .ok (4, t) := ⟨by decide, by decide, by decide, _, rfl⟩

theorem witness_ByteLengthIsHighestEnd :
    State.reset.regions ≠ [] ∧ { State.reset with regions := [] }.regions = [] := by decide

theorem witness_ByteWriteThenRead : State.reset.RamByte 0x7FFF 0 0x7FFF := by decide

theorem witness_WordWriteIsLittleEndian :
    State.reset.RamWord 0xFFFE 3 0xFE ∧ State.reset.resolve (0xFFFE + 1) = some (3, 0xFE + 1) := by decide

theorem witness_WordReadStaysInOneDevice :
    State.reset.resolve 0x7FFE = some (0, 0x7FFE) ∧ 0x7FFE + 1 < (State.reset.device 0).capacity ∧
      State.reset.resolve 0x7FFF = some (0, 0x7FFF) ∧ (State.reset.device 0).capacity ≤ 0x7FFF + 1 ∧
      State.reset.params.policy = .halt ∧ (soft State.reset).resolve 0x7FFF = some (0, 0x7FFF) ∧
      (soft State.reset).params.policy = .sentinel := by decide

theorem witness_RomWritesNeverFault : State.reset.RomAt 0xBFFF 1 0x3FFF := by decide

theorem witness_FailingWordWriteDrawsLowByte :
    let s := State.reset
    s.resolve 0xFFFF = some (3, 0xFF) ∧ (s.device 3).kind = .ram ∧ (s.device 3).capacity ≤ 0xFF + 1 ∧
      0xFF < (s.device 3).capacity ∧ s.params.policy = .halt ∧ (soft s).resolve 0xFFFF = some (3, 0xFF) ∧
      (soft s).params.policy = .sentinel := by decide

/-- A region mapped in front from 0x10000 on, which no address of the core reaches, IE and IF pending a dispatch. -/
theorem witness_CoreFormsOnlyItsAddresses :
    let s := calls (pending 0x06 0x07) [.handleInterrupts]
    let r : Region := { token := 4, label := "high", device := 0, start := 0x10000, last := 0x100FF, remap := true }
    (∀ addr, (addr < 0x10000 ∨ ∃ l : Line, addr = s.params.vectorBase + 2 * l.val) →
      (s.setRegions (r :: s.regions)).resolve addr = s.resolve addr) ∧
      s.hostCalls = [.handleInterrupts] ∧ isBusCall .handleInterrupts = false ∧ HostCall.handleInterrupts ≠ .reset := by
  intro s r
  refine ⟨fun addr h => ?_, by decide, by decide, by decide⟩
  have hlt : addr < 0x10000 := by
    rcases h with h | ⟨l, rfl⟩
    · exact h
    · show 0xFFE0 + 2 * l.val < 0x10000
      omega
  have hr : r.contains addr = false := by
    simp only [Region.contains, r]; simp; omega
  simp [State.resolve, findRegion, State.setRegions, hr]

theorem witness_UnmappedAccessesRaise :
    State.reset.resolve 0xC020 = none ∧ State.reset.resolve 0xFEFF = none ∧ State.reset.resolve 0x10000 = none := by decide

theorem witness_ByteDeviceFaultFollowsPolicy :
    let s := State.reset
    s.resolve 0xC010 = some (2, 0x10) ∧ (s.device 2).capacity ≤ 0x10 ∧ (s.device 2).kind = .ram ∧
      s.params.policy = .halt ∧ (soft s).resolve 0xC010 = some (2, 0x10) ∧ (soft s).params.policy = .sentinel := by decide

theorem witness_HostPokesTouchNoCore : State.reset.resolve 0xD000 = none := by decide

/-- RAM0's last byte, the last word of IO, TINY past its capacity, RAM0's last byte as a word, and the last byte of ROM0. -/
theorem witness_HostPokesReadAndStore :
    let s := State.reset
    (s.resolve 0x7FFF = some (0, 0x7FFF) ∧ 0x7FFF < (s.device 0).capacity ∧ (s.device 0).capacity ≤ 0x7FFF + 1 ∧
      (s.device 0).kind = .ram) ∧
      (s.resolve 0xFFFE = some (3, 0xFE) ∧ 0xFE + 1 < (s.device 3).capacity ∧ (s.device 3).kind = .ram) ∧
      (s.resolve 0xC010 = some (2, 0x10) ∧ (s.device 2).capacity ≤ 0x10 ∧ (s.device 2).kind = .ram) ∧
      (s.resolve 0xBFFF = some (1, 0x3FFF) ∧ (s.device 1).isRom = true) := by decide

theorem witness_InspectHasNoEffect : (calls State.reset [.inspect 0xC00F 2]).hostCalls = [.inspect 0xC00F 2] := by decide

theorem witness_LoadPlacesImage :
    let s := State.reset
    let r := (tc 0x8000 [0xA9]).touchAt 0x8000
    s.resolve 0xD000 = none ∧
      (s.resolve 0xC00E = some (2, 0x0E) ∧ 0x0E + [0x11, 0x22].length ≤ (s.device 2).capacity ∧
        (s.device 2).romAccessed = false) ∧
      (s.resolve 0xC00F = some (2, 0x0F) ∧ (s.device 2).capacity < 0x0F + [0x11, 0x22].length) ∧
      (r.resolve 0xBFFF = some (1, 0x3FFF) ∧ 0x3FFF + [0x11].length ≤ (r.device 1).capacity ∧
        (r.device 1).romAccessed = true ∧ (r.device 1).capacity < 0x3FFF + [0x11, 0x22].length) := by decide

theorem witness_RomLoadWindow :
    let s := tc 0x8000 [0xA9]
    s.RomAt 0x8000 1 0 ∧ s.peek 0x8000 = some 0xA9 ∧ 0 + [0x11, 0x22].length ≤ (s.device 1).capacity := by decide

theorem witness_PushStoresWordAtSp :
    State.reset.RamWord State.reset.sp.toNat 0 0x01FE ∧
      { State.reset with sp := 0x8010 }.RomAt 0x8010 1 0x10 := by decide

theorem witness_PopReadsWordAboveSp :
    let s := { State.reset with sp := 0xFFFE }
    s.resolve (s.sp + 2#16).toNat = some (0, 0) ∧ 0 + 1 < (s.device 0).capacity := by decide

theorem witness_StackFaultsKeepTheirOrder :
    (∃ t, { State.reset with sp := 0xD000 }.push 0x1234 = .raised t) ∧
      ∃ t, { State.reset with sp := 0xFFFD }.pop = .raised t := ⟨⟨_, rfl⟩, _, rfl⟩

/-- Two words below the reset stack pointer, in RAM0. -/
theorem witness_StackIsLastInFirstOut :
    (∀ k, k < [0x1111#16, 0x2222#16].length →
      State.reset.RamWord (State.reset.sp - BitVec.ofNat 16 (2 * k)).toNat 0 (0x1FE - 2 * k)) ∧
    ∀ j k, j < k → k < [0x1111#16, 0x2222#16].length → (0 : Nat) = 0 →
      0x1FE - 2 * j + 1 < 0x1FE - 2 * k ∨ 0x1FE - 2 * k + 1 < 0x1FE - 2 * j :=
  ⟨by decide, fun j k hj hk _ => .inr (by simp at hk; omega)⟩

theorem witness_RequestSetsPendingBit :
    let s := calls (pending 0x00 0x08) [.requestInterrupt 7]
    s.fault = none ∧ s.hostCalls = [.requestInterrupt ((7 : Line).val : Int)] ∧ s.RamByte s.params.addrIF.toNat 3 1 := by decide

theorem witness_ClearClearsPendingBit :
    let s := calls (pending 0x00 0x09) [.clearInterruptFlag 0]
    s.fault = none ∧ s.hostCalls = [.clearInterruptFlag ((0 : Line).val : Int)] ∧ s.RamByte s.params.addrIF.toNat 3 1 := by decide

theorem witness_IsRequestedReportsBit :
    let s := calls (pending 0x00 0x09) [.isInterruptRequested 3]
    s.fault = none ∧ s.hostCalls = [.isInterruptRequested ((3 : Line).val : Int)] ∧
      s.peek s.params.addrIF.toNat = some 0x09 := by decide

theorem witness_LinesOutsideRangeAreRefused :
    let s := calls State.reset [.requestInterrupt 8]
    let u := calls State.reset [.clearInterruptFlag (-1)]
    s.fault = none ∧ s.hostCalls = [.requestInterrupt 8] ∧ (7 : Int) < 8 ∧
      u.fault = none ∧ u.hostCalls = [.clearInterruptFlag (-1)] ∧ (-1 : Int) < 0 := by decide

theorem witness_NothingToDispatch :
    let s := calls (pending 0x00 0xFF) [.handleInterrupts]
    let u := calls (pending 0x04 0x03) [.handleInterrupts]
    s.fault = none ∧ s.hostCalls = [.handleInterrupts] ∧ s.peek s.params.addrIE.toNat = some 0x00 ∧
      u.fault = none ∧ u.hostCalls = [.handleInterrupts] ∧ u.peek u.params.addrIE.toNat = some 0x04 ∧
      u.peek u.params.addrIF.toNat = some 0x03 ∧ (0x04 : Byte) &&& 0x03 = 0#8 := by decide

theorem witness_DispatchTakesLowestLine :
    let s := calls (pending 0x06 0x07) [.handleInterrupts]
    s.fault = none ∧ s.hostCalls = [.handleInterrupts] ∧ s.peek s.params.addrIE.toNat = some 0x06 ∧
      s.peek s.params.addrIF.toNat = some 0x07 ∧ (0x06 : Byte).getLsbD 1 = true ∧ (0x07 : Byte).getLsbD 1 = true ∧
      (∀ k : Line, k < 1 → ¬((0x06 : Byte).getLsbD k.val = true ∧ (0x07 : Byte).getLsbD k.val = true)) ∧
      s.RamByte s.params.addrIF.toNat 3 1 ∧ s.RamWord s.sp.toNat 0 0x1FE ∧
      s.resolve (s.params.vectorBase + 2 * 1) = some (3, 0xE2) ∧ 0xE2 + 1 < (s.device 3).capacity ∧
      ((3 : Nat) = 0 → 1 < 0x1FE ∨ 0x1FE + 1 < 1) ∧ ((3 : Nat) = 0 → 0xE2 + 1 < 0x1FE ∨ 0x1FE + 1 < 0xE2) := by decide

theorem witness_DispatchVectorFault :
    let s := calls { pending 0x01 0x01 with params := { Params.tc with vectorBase := 0xD000 } } [.handleInterrupts]
    s.fault = none ∧ s.hostCalls = [.handleInterrupts] ∧ s.peek s.params.addrIE.toNat = some 0x01 ∧
      s.peek s.params.addrIF.toNat = some 0x01 ∧ (0x01 : Byte).getLsbD 0 = true ∧
      (∀ k : Line, k < 0 → ¬((0x01 : Byte).getLsbD k.val = true ∧ (0x01 : Byte).getLsbD k.val = true)) ∧
      s.RamWord s.sp.toNat 0 0x1FE ∧ s.resolve (s.params.vectorBase + 2 * 0) = none := by decide

theorem witness_InterruptEntryChangesOnlyPcAndSp :
    ∃ t, (pending 0x06 0x07).takeInterrupt 1 = .ok () t := ⟨_, rfl⟩

theorem witness_HaltedCoreRefuses :
    halted.fault ≠ none ∧ halted.hostCalls = [] ∧
      (calls halted [.clearInterruptFlag 7]).hostCalls = [.clearInterruptFlag 7] := by decide

theorem witness_HaltLeavesBusCallsAvailable : isBusCall (.write 0x0000 1) = true := by decide

theorem witness_FaultRecordIsSticky :
    (∃ t, step (calls halted [.read 0x8000]) = .next t ∧ halted.fault = some (.unmappedAddress 0xD000)) ∧
      ∃ t, step (calls halted [.reset]) = .next t ∧ t.fault = none := ⟨⟨_, rfl, rfl⟩, _, rfl, rfl⟩

theorem witness_StepStopsOnlyWhenHalted :
    step halted = .refused .halted ∧ ∃ t, step State.reset = .next t := ⟨rfl, _, rfl⟩

theorem witness_PolicyDecidesDeviceFaults :
    (∃ t, step (soft { State.reset with pc := 0xC010 }) = .next t ∧ t.devlog ≠ []) ∧
      (∃ t, step { State.reset with pc := 0xC010 } = .next t ∧ State.reset.params.policy = .halt) ∧
      ∀ r, State.reset.fault ≠ some (.deviceFault r) :=
  ⟨⟨_, rfl, by decide⟩, ⟨_, rfl, rfl⟩, fun _ h => nomatch h⟩

theorem witness_ResetGivesResetState : (calls halted [.reset]).hostCalls = .reset :: [] := by decide

theorem witness_ResetKeepsRegionList : (calls (edge State.reset) [.reset]).hostCalls = .reset :: [] := by decide

theorem witness_StepKeepsInvariant :
    (calls State.reset [.map "shadow" 2 0 1 false]).Inv ∧
      ∃ t, step (calls State.reset [.map "shadow" 2 0 1 false]) = .next t := ⟨by decide, _, rfl⟩

/-- A completed cycle, a cycle that raises, a call that is no cycle, and reset. -/
theorem witness_FlagsAreOnlyOredIn :
    (∃ t, step (tc 0x8000 [0xA9, 0x00]) = .next t ∧ (tc 0x8000 [0xA9, 0x00]).hostCalls = [] ∧ t.fault = none) ∧
      (∃ t, step State.reset = .next t ∧ t.fault ≠ none ∧ State.reset.hostCalls.head? ≠ some .reset) ∧
      (∃ t, step (calls State.reset [.byteLength]) = .next t ∧
        ¬((calls State.reset [.byteLength]).hostCalls = [] ∨
          (calls State.reset [.byteLength]).hostCalls.head? = some .cycle)) ∧
      ∃ t, step (calls { State.reset with fr := 0x82 } [.reset]) = .next t :=
  ⟨⟨_, rfl, by decide, by decide⟩, ⟨_, rfl, by decide, by decide⟩, ⟨_, rfl, by decide⟩, _, rfl⟩

theorem witness_OnlyLdaWritesAccumulator :
    ∃ t, step (tc 0x8000 [0xA9, 0x01]) = .next t ∧ t.a ≠ (tc 0x8000 [0xA9, 0x01]).a ∧
      (tc 0x8000 [0xA9, 0x01]).hostCalls.head? ≠ some .reset := ⟨_, rfl, by decide, by decide⟩

theorem witness_RegisterWriters :
    ∃ t, step (tc 0x8000 [0xA9, 0x01]) = .next t ∧ t.pc = (tc 0x8000 [0xA9, 0x01]).pc + 2#16 ∧
      (tc 0x8000 [0xA9, 0x01]).hostCalls.head? ≠ some .reset ∧
      (tc 0x8000 [0xA9, 0x01]).hostCalls.head? ≠ some .handleInterrupts := ⟨_, rfl, by decide, by decide, by decide⟩

theorem witness_ShapesNeverChange : ∃ t, step State.reset = .next t := ⟨_, rfl⟩

theorem witness_OnlyMapAndUnmapChangeRegions :
    (∃ t, step (calls State.reset [.map "shadow" 2 0 1 true]) = .next t ∧ t.regions ≠ State.reset.regions) ∧
      ∃ t, step (calls State.reset [.unmap 3]) = .next t ∧ t.regions ≠ State.reset.regions :=
  ⟨⟨_, rfl, by decide⟩, _, rfl, by decide⟩

theorem witness_CycleCostChangesNothing :
    (∃ t, step State.reset = .next t) ∧ step halted = .refused .halted := ⟨⟨_, rfl⟩, rfl⟩

end Sys2Proof.Tests
end

/-! # The state: registers, the invariant, and who writes what (10_state.md) -/

namespace Sys2Proof.Machine

/-! ## The register file -/

/-- A general-purpose register after a write reads the value masked to its width (10_state.md R11). -/
theorem RegVal.toNat_put (x : RegVal) (v : Int) : (x.put v).toNat = (v % (2 ^ x.width : Nat)).toNat := by
  cases x with
  | w8 _ => exact BitVec.toNat_ofInt v
  | w16 _ => exact BitVec.toNat_ofInt v

/-- A write keeps a general-purpose register's name and width. -/
@[simp] theorem Gpr.decl_put (g : Gpr) (v : Int) : (g.put v).decl = g.decl := by
  obtain ⟨name, val⟩ := g
  cases val <;> rfl

theorem State.regRead_regWrite_self {s : State} {r : RegName} {w : Nat} (v : Int) (h : s.regWidth r = some w) :
    (s.regWrite r v).regRead r = some (v % (2 ^ w : Nat)).toNat := by
  cases r with
  | gpr k =>
    obtain ⟨g, hg, rfl⟩ := Option.map_eq_some_iff.1 h
    simp [State.regWrite, State.regRead, hg, Gpr.put, RegVal.toNat_put]
  | a | fr | ir | pc | sp | fp =>
    cases h
    exact congrArg some (BitVec.toNat_ofInt v)

theorem State.regRead_regWrite_ne (s : State) {r r' : RegName} (v : Int) (h : r' ≠ r) :
    (s.regWrite r v).regRead r' = s.regRead r' := by
  cases r with
  | gpr k =>
    cases r' with
    | gpr j =>
      have hkj : k ≠ j := fun e => h (by rw [e])
      simp [State.regWrite, State.regRead, hkj]
    | a | fr | ir | pc | sp | fp => rfl
  | a | fr | ir | pc | sp | fp =>
    cases r' <;> simp [State.regWrite, State.regRead] at h ⊢

theorem State.gprDecls_regWrite (s : State) (r : RegName) (v : Int) : (s.regWrite r v).gprDecls = s.gprDecls := by
  cases r with
  | gpr k =>
    refine List.ext_getElem? fun j => ?_
    simp only [State.gprDecls, State.regWrite, State.setGprs_gprs, List.getElem?_map, List.getElem?_modify]
    cases s.gprs[j]? with
    | none => rfl
    | some g => by_cases hk : k = j <;> simp [hk]
  | a | fr | ir | pc | sp | fp => rfl

/-- The width of a general-purpose register is the one its declaration gives. -/
theorem State.regWidth_gpr (s : State) (k : Nat) : s.regWidth (.gpr k) = (s.gprDecls[k]?).map Prod.snd := by
  simp [State.regWidth, State.gprDecls, Function.comp_def, Gpr.decl]

theorem State.regWidth_regWrite (s : State) (r r' : RegName) (v : Int) :
    (s.regWrite r v).regWidth r' = s.regWidth r' := by
  cases r' with
  | gpr k => rw [State.regWidth_gpr, State.regWidth_gpr, State.gprDecls_regWrite]
  | a | fr | ir | pc | sp | fp => rfl

/-- Masking the exact sum of a register's value and an integer is the sum modulo the register's range. -/
theorem ofInt_toNat_add {w : Nat} (x : BitVec w) (k : Int) :
    BitVec.ofInt w (x.toNat + k) = x + BitVec.ofInt w k := by
  rw [BitVec.ofInt_add, BitVec.ofInt_natCast, BitVec.ofNat_toNat, BitVec.setWidth_eq]

theorem State.regWrite_pc_add (s : State) (k : Int) :
    s.regWrite .pc (s.pc.toNat + k) = s.setPc (s.pc + BitVec.ofInt 16 k) :=
  congrArg s.setPc (ofInt_toNat_add s.pc k)

theorem State.regWrite_sp_add (s : State) (k : Int) :
    s.regWrite .sp (s.sp.toNat + k) = s.setSp (s.sp + BitVec.ofInt 16 k) :=
  congrArg s.setSp (ofInt_toNat_add s.sp k)

/-! ## What the relations between states keep -/

theorem State.halted_eq_false_iff (s : State) : s.halted = false ↔ s.fault = none := by
  simp [State.halted]

theorem State.halted_eq_true_iff (s : State) : s.halted = true ↔ s.fault ≠ none := by
  simp [State.halted, Option.isSome_iff_ne_none]

section
variable {s t : State}

theorem OpStep.a_eq (h : OpStep s t) : t.a = s.a := by obtain ⟨_, _, _, _, _, _, _, _, _, _, rfl⟩ := h; rfl
theorem OpStep.fr_eq (h : OpStep s t) : t.fr = s.fr := by obtain ⟨_, _, _, _, _, _, _, _, _, _, rfl⟩ := h; rfl
theorem OpStep.fp_eq (h : OpStep s t) : t.fp = s.fp := by obtain ⟨_, _, _, _, _, _, _, _, _, _, rfl⟩ := h; rfl
theorem OpStep.gprs_eq (h : OpStep s t) : t.gprs = s.gprs := by obtain ⟨_, _, _, _, _, _, _, _, _, _, rfl⟩ := h; rfl

theorem BusStep.pc_eq (h : BusStep s t) : t.pc = s.pc := by obtain ⟨_, _, _, rfl⟩ := h; rfl
theorem BusStep.sp_eq (h : BusStep s t) : t.sp = s.sp := by obtain ⟨_, _, _, rfl⟩ := h; rfl
theorem BusStep.fault_eq (h : BusStep s t) : t.fault = s.fault := by obtain ⟨_, _, _, rfl⟩ := h; rfl

end

/-! ## The invariant -/

/-- The parameters, the region list and the token counter are as before, and every device keeps its class, capacity and
form: all that the invariant speaks of. -/
structure SameLayout (s t : State) : Prop where
  params : t.params = s.params
  regions : t.regions = s.regions
  nextToken : t.nextToken = s.nextToken
  devices : DevicesKeep s.devices t.devices

theorem OpStep.sameLayout {s t : State} (h : OpStep s t) : SameLayout s t := by
  obtain ⟨_, _, _, _, _, _, _, hd, _, _, rfl⟩ := h
  exact ⟨rfl, rfl, rfl, hd⟩

theorem SameLayout.inv {s t : State} (h : SameLayout s t) (hs : s.Inv) : t.Inv := by
  obtain ⟨hparams, hdevs, hregs, htok⟩ := hs
  refine ⟨h.params ▸ hparams, h.devices.wf hdevs, fun r hr => ?_, h.regions ▸ htok⟩
  obtain ⟨hdev, hle, hlt⟩ := hregs r (h.regions ▸ hr)
  exact ⟨h.devices.length_eq ▸ hdev, hle, h.nextToken ▸ hlt⟩

/-- A cycle, whether it raised a fault or ran LDA immediate, keeps the layout. -/
theorem cycle_sameLayout {s t : State} (h : cycle s = .next t) : SameLayout s t := by
  obtain ⟨_, ⟨hop, _⟩ | ⟨imm, t0, hop, _, _, _, _, rfl⟩⟩ := cycle_cases h
  · exact hop.sameLayout
  · obtain ⟨hp, hr, hn, hd⟩ := hop.sameLayout
    exact ⟨hp, hr, hn, hd⟩

theorem DevicesKeep.mapIdx {ds : List Device} {f : Nat → Device → Device} (hf : ∀ i d, Device.Keeps d (f i d)) :
    DevicesKeep ds (ds.mapIdx f) := by
  induction ds generalizing f with
  | nil => exact .nil
  | cons d ds ih => rw [List.mapIdx_cons]; exact .cons (hf 0 d) (ih fun i d => hf (i + 1) d)

/-- `reset()` keeps the region list, and a device it zeroes stays well-formed (20_memory.md R46, R62). -/
theorem State.doReset_sameLayout (s : State) : SameLayout s s.doReset where
  params := rfl
  regions := rfl
  nextToken := rfl
  devices := DevicesKeep.mapIdx fun i d => by
    split
    · exact Device.keeps_reset d
    · exact Device.Keeps.refl d

/-- The region `bus.map` makes (20_memory.md R50). -/
def State.newRegion (s : State) (label : String) (device start size : Nat) (remap : Bool) : Region where
  token := s.nextToken
  label := label
  device := device
  start := start
  last := start + size - 1
  remap := remap

/-- What `bus.map` leaves when it is not refused (20_memory.md R50). -/
theorem State.busMap_ok_iff {s t : State} {label : String} {device start size tok : Nat} {remap : Bool} :
    s.busMap label device start size remap = .ok (tok, t) ↔
      size ≠ 0 ∧ device < s.devices.length ∧ tok = s.nextToken ∧
        t = (s.setRegions (s.newRegion label device start size remap :: s.regions)).setNextToken (s.nextToken + 1) := by
  unfold State.busMap
  split
  · next hz => simp [hz]
  · next hz =>
    split
    · next hd => simp [Nat.not_lt.2 hd]
    · next hd =>
      simp only [Except.ok.injEq, Prod.mk.injEq, State.newRegion]
      exact ⟨fun ⟨h1, h2⟩ => ⟨hz, by omega, h1.symm, h2.symm⟩, fun ⟨_, _, h1, h2⟩ => ⟨h1.symm, h2.symm⟩⟩

/-- A map keeps the invariant: the fresh token is above every token given out. -/
theorem State.busMap_inv {s t : State} {label : String} {device start size tok : Nat} {remap : Bool}
    (h : s.busMap label device start size remap = .ok (tok, t)) (hs : s.Inv) : t.Inv := by
  obtain ⟨hsize, hdevice, _, rfl⟩ := State.busMap_ok_iff.1 h
  obtain ⟨hparams, hdevs, hregs, htok⟩ := hs
  refine ⟨hparams, hdevs, List.forall_mem_cons.2 ⟨?_, fun r hr => ?_⟩, List.pairwise_cons.2 ⟨fun r hr => ?_, htok⟩⟩
  · exact ⟨hdevice, by simp only [State.newRegion]; omega, Nat.lt_succ_self _⟩
  · obtain ⟨hdev, hle, hlt⟩ := hregs r hr
    exact ⟨hdev, hle, Nat.lt_succ_of_lt hlt⟩
  · obtain ⟨_, _, hlt⟩ := hregs r hr
    exact Nat.ne_of_gt hlt

/-- An unmap keeps the invariant: the regions left are some of those before. -/
theorem State.busUnmap_inv {s : State} (token : Nat) (hs : s.Inv) : (s.busUnmap token).Inv := by
  obtain ⟨hparams, hdevs, hregs, htok⟩ := hs
  exact ⟨hparams, hdevs, fun r hr => hregs r (List.mem_of_mem_filter hr), htok.filter _⟩

/-! ## What a host call does -/

/-- A load that is not refused stores into one device and nothing else (20_memory.md R45, R61). -/
theorem State.busLoad_step {s t : State} {data : List Byte} {addr : Nat} (h : s.busLoad data addr = .ok t) :
    BusStep s t := by
  unfold State.busLoad at h
  split at h
  · cases h
  · next i off _ =>
    split at h
    · cases h
    · next d hd =>
      cases h
      obtain ⟨hfits, _, rfl⟩ := (Device.load_ok_iff _ _ _ _).1 hd
      exact BusStep.setDevice (Device.keeps_store hfits)

/-- A result of the core leaves PC and SP where they stood. -/
def Res.KeepsPcSp {α : Type} (s : State) (r : Res α) : Prop := r.state.pc = s.pc ∧ r.state.sp = s.sp

theorem Res.KeepsPcSp.bind {α β : Type} {s : State} {r : Res α} {f : α → State → Res β} (h : r.KeepsPcSp s)
    (hf : ∀ a t, (f a t).KeepsPcSp t) : (r.bind f).KeepsPcSp s := by
  cases r with
  | raised t => exact h
  | ok a t => exact ⟨(hf a t).1.trans h.1, (hf a t).2.trans h.2⟩

theorem State.memRead8_keepsPcSp (s : State) (addr : Nat) : (s.memRead8 addr).KeepsPcSp s :=
  (s.memRead8_regs addr).imp_right And.left

theorem State.memWrite8_keepsPcSp (s : State) (addr : Nat) (v : Byte) : (s.memWrite8 addr v).KeepsPcSp s :=
  (s.memWrite8_regs addr v).imp_right And.left

theorem State.ifSet_keepsPcSp (s : State) (l : Line) : (s.ifSet l).KeepsPcSp s :=
  (s.memRead8_keepsPcSp _).bind fun v t => t.memWrite8_keepsPcSp _ (v ||| bitMask l)

theorem State.ifClear_keepsPcSp (s : State) (l : Line) : (s.ifClear l).KeepsPcSp s :=
  (s.memRead8_keepsPcSp _).bind fun v t => t.memWrite8_keepsPcSp _ (v &&& ~~~ bitMask l)

theorem State.isInterruptRequested_keepsPcSp (s : State) (l : Line) : (s.isInterruptRequested l).KeepsPcSp s :=
  (s.memRead8_keepsPcSp _).bind fun _ _ => ⟨rfl, rfl⟩

/-- An operation with a line argument leaves PC and SP, if its body does. -/
theorem State.lineCall_keepsPcSp {s t : State} {α : Type} {line : Int} {body : State → Line → Res α}
    {reply : α → HostReply} (h : s.lineCall line body reply = .next t) (hb : ∀ l, (body s l).KeepsPcSp s) :
    t.pc = s.pc ∧ t.sp = s.sp := by
  unfold State.lineCall State.coreCall at h
  split at h
  · cases h; exact ⟨rfl, rfl⟩
  · next l _ =>
    have hl := hb l
    split at h
    · cases h; exact ⟨rfl, rfl⟩
    · dsimp only at h
      cases hr : body s l with
      | ok a u => rw [hr] at h hl; cases h; exact hl
      | raised u => rw [hr] at h hl; cases h; exact hl

/-- What an interface operation does to the state, by kind: a cycle that ran, an interrupt dispatch, a line operation, an
access of the bus (a refused operation is one that changes nothing), a reset, a map, an unmap. -/
inductive CallEffect (c : HostCall) (s t : State) : Prop where
  /-- A cycle of a core that is not halted (40_cycle.md R101). -/
  | cycleRan (hc : c = .cycle) (h : cycle s = .next t)
  /-- `handle_interrupts()` (60_exceptions.md R154). -/
  | interrupts (hc : c = .handleInterrupts) (hh : s.halted = false) (h : OpStep s t)
  /-- An operation on an interrupt line (60_exceptions.md R151 to R153). -/
  | line (hc : c ≠ .cycle) (hc' : c ≠ .reset) (hh : s.halted = false) (h : OpStep s t) (hpc : t.pc = s.pc)
      (hsp : t.sp = s.sp)
  /-- A host poke or load, or an operation that is refused or only reports. -/
  | bus (hc : c = .cycle → s.halted = true) (hc' : c ≠ .reset) (h : BusStep s t)
  /-- `reset()` (70_reset_and_hazards.md R180). -/
  | reset (hc : c = .reset) (ht : t = s.doReset)
  /-- `bus.map` (20_memory.md R50). -/
  | map (label : String) (device start size : Nat) (remap : Bool) (tok : Nat)
      (hc : c = .map label device start size remap) (h : s.busMap label device start size remap = .ok (tok, t))
  /-- `bus.unmap` (20_memory.md R51). -/
  | unmap (token : Nat) (hc : c = .unmap token) (ht : t = s.busUnmap token)

/-- A line operation, refused or run. -/
theorem CallEffect.of_line {c : HostCall} {s t : State} (hc : c ≠ .cycle) (hc' : c ≠ .reset)
    (h : t = s ∨ (s.halted = false ∧ OpStep s t)) (hregs : t.pc = s.pc ∧ t.sp = s.sp) : CallEffect c s t := by
  rcases h with rfl | ⟨hh, hop⟩
  · exact .bus (fun h => absurd h hc) hc' (BusStep.refl _)
  · exact .line hc hc' hh hop hregs.1 hregs.2

/-- A bus operation, or one that only reports. -/
theorem CallEffect.of_busStep {c : HostCall} {s t : State} (hc : c ≠ .cycle) (hc' : c ≠ .reset) (h : BusStep s t) :
    CallEffect c s t := .bus (fun h => absurd h hc) hc' h

/-- Every interface operation answers a next state, which its effect and its reply make. -/
theorem hostCall_effect (c : HostCall) (s : State) :
    ∃ r t, hostCall c s = .next (t.setReply (some r)) ∧ CallEffect c s t := by
  obtain ⟨r, t, h, hcall⟩ := hostCall_cases c s
  refine ⟨r, t, h, ?_⟩
  cases c with
  | cycle =>
    rcases hcall with ⟨hh, rfl⟩ | hran
    · exact .bus (fun _ => hh) nofun (BusStep.refl _)
    · exact .cycleRan rfl hran
  | handleInterrupts =>
    rcases hcall with ⟨_, rfl⟩ | ⟨hh, hop⟩
    · exact .of_busStep nofun nofun (BusStep.refl _)
    · exact .interrupts rfl hh hop
  | requestInterrupt line =>
    have hregs := State.lineCall_keepsPcSp h s.ifSet_keepsPcSp
    exact .of_line nofun nofun hcall hregs
  | isInterruptRequested line =>
    have hregs := State.lineCall_keepsPcSp h s.isInterruptRequested_keepsPcSp
    exact .of_line nofun nofun hcall hregs
  | clearInterruptFlag line =>
    have hregs := State.lineCall_keepsPcSp h s.ifClear_keepsPcSp
    exact .of_line nofun nofun hcall hregs
  | reset => exact .reset rfl hcall
  | map label device start size remap =>
    rcases hcall with rfl | ⟨tok, hmap⟩
    · exact .of_busStep nofun nofun (BusStep.refl _)
    · exact .map label device start size remap tok rfl hmap
  | unmap token => exact .unmap token rfl hcall
  | load data addr =>
    rcases hcall with rfl | hload
    · exact .of_busStep nofun nofun (BusStep.refl _)
    · exact .of_busStep nofun nofun (State.busLoad_step hload)
  | read _ | read16 _ | write _ _ | write16 _ _ => exact .of_busStep nofun nofun hcall
  | byteLength | inspect _ _ =>
    cases hcall
    exact .of_busStep nofun nofun (BusStep.refl _)

/-! ## What a step does -/

/-- The operation a step runs: the first queued call, or a cycle when none is queued (entry 5). -/
def State.nextCall (s : State) : HostCall := s.hostCalls.head?.getD .cycle

theorem State.nextCall_eq_cycle_iff (s : State) :
    s.nextCall = .cycle ↔ s.hostCalls = [] ∨ s.hostCalls.head? = some .cycle := by
  unfold State.nextCall
  cases s.hostCalls <;> simp

theorem State.nextCall_eq_iff (s : State) (c : HostCall) (hc : c ≠ .cycle) :
    s.nextCall = c ↔ s.hostCalls.head? = some c := by
  unfold State.nextCall
  cases s.hostCalls <;> simp [hc.symm]

theorem State.hostCalls_of_nextCall {s : State} {c : HostCall} (h : s.nextCall = c) (hc : c ≠ .cycle) :
    ∃ cs, s.hostCalls = c :: cs :=
  List.head?_eq_some_iff.1 ((s.nextCall_eq_iff c hc).1 h)

/-- Everything a step can do: the effect of the operation it runs on the state with that call taken off the queue, and a
reply. A bare cycle notes none. -/
theorem step_effect {s t : State} (h : step s = .next t) :
    ∃ r t0, CallEffect s.nextCall (s.setHostCalls s.hostCalls.tail) t0 ∧ t = t0.setReply r := by
  rcases step_cases h with ⟨hq, hcyc⟩ | ⟨c, cs, _, _, hq, _, _⟩
  · have hs : s.setHostCalls s.hostCalls.tail = s := by rw [hq, List.tail_nil, ← hq]; rfl
    exact ⟨t.reply, t, hs.symm ▸ .cycleRan (s.nextCall_eq_cycle_iff.2 (.inl hq)) hcyc, rfl⟩
  · obtain ⟨r, t0, hcall, he⟩ := hostCall_effect c (s.setHostCalls cs)
    have ht : t = t0.setReply (some r) := by
      simp only [step, hq, hcall, Host.Outcome.next.injEq] at h
      exact h.symm
    exact ⟨some r, t0, by simpa [State.nextCall, hq] using he, ht⟩

/-! ## The layout after a step -/

/-- Every operation but a map and an unmap keeps the layout. -/
theorem CallEffect.layout_cases {c : HostCall} {s t : State} (h : CallEffect c s t) :
    SameLayout s t ∨
      (∃ label device start size remap tok, c = .map label device start size remap ∧
        s.busMap label device start size remap = .ok (tok, t)) ∨
      ∃ token, c = .unmap token ∧ t = s.busUnmap token := by
  cases h with
  | cycleRan _ h => exact .inl (cycle_sameLayout h)
  | interrupts _ _ h => exact .inl h.sameLayout
  | line _ _ _ h _ _ => exact .inl h.sameLayout
  | bus _ _ h => exact .inl (OpStep.of_busStep h).sameLayout
  | reset _ ht => exact .inl (ht ▸ s.doReset_sameLayout)
  | map label device start size remap tok hc h => exact .inr (.inl ⟨label, device, start, size, remap, tok, hc, h⟩)
  | unmap token hc ht => exact .inr (.inr ⟨token, hc, ht⟩)

theorem CallEffect.inv {c : HostCall} {s t : State} (h : CallEffect c s t) (hs : s.Inv) : t.Inv := by
  rcases h.layout_cases with hl | ⟨_, _, _, _, _, _, _, hmap⟩ | ⟨token, _, rfl⟩
  · exact hl.inv hs
  · exact State.busMap_inv hmap hs
  · exact State.busUnmap_inv token hs

/-! ## Who writes A and FR -/

/-- A step that ran LDA immediate to its end: no fault before or after, the opcode in IR, PC behind the instruction, the
flags of the loaded value ORed into FR (40_cycle.md R105, 41_load.md R120). -/
structure RanLdaImm (s t : State) : Prop where
  fault_before : s.fault = none
  fault_after : t.fault = none
  ir : t.ir = s.params.opcLdaImm
  pc : t.pc = s.pc + 2#16
  fr : t.fr = loadFlags s.params t.a s.fr

/-- A cycle ran LDA immediate to its end, or raised a fault with A and FR as they were. -/
theorem cycle_accumulator_cases {s t : State} (h : cycle s = .next t) :
    RanLdaImm s t ∨ (t.fault ≠ none ∧ t.a = s.a ∧ t.fr = s.fr) := by
  obtain ⟨hh, ⟨hop, hfault, _⟩ | ⟨imm, t0, _, hfault, hir, _, hpc, rfl⟩⟩ := cycle_cases h
  · exact .inr ⟨Option.isSome_iff_ne_none.1 hfault, hop.a_eq, hop.fr_eq⟩
  · have hs := s.halted_eq_false_iff.1 hh
    exact .inl ⟨hs, hfault.trans hs, hir, hpc, rfl⟩

/-- Everything a step can do to A and FR: run LDA immediate to its end, reset them, or leave them; a cycle that leaves them
ends with a fault. -/
theorem step_accumulator_cases {s t : State} (h : step s = .next t) :
    (s.nextCall = .cycle ∧ RanLdaImm s t) ∨ (s.nextCall = .reset ∧ t.fr = 0#8) ∨
      (s.nextCall ≠ .reset ∧ (s.nextCall = .cycle → t.fault ≠ none) ∧ t.a = s.a ∧ t.fr = s.fr) := by
  obtain ⟨r, t0, he, rfl⟩ := step_effect h
  cases he with
  | cycleRan hc h =>
    rcases cycle_accumulator_cases h with hran | ⟨hfault, ha, hfr⟩
    · exact .inl ⟨hc, hran.fault_before, hran.fault_after, hran.ir, hran.pc, hran.fr⟩
    · exact .inr (.inr ⟨by simp [hc], fun _ => hfault, ha, hfr⟩)
  | interrupts hc _ h => exact .inr (.inr ⟨by simp [hc], by simp [hc], h.a_eq, h.fr_eq⟩)
  | line hc hc' _ h _ _ => exact .inr (.inr ⟨hc', fun h => absurd h hc, h.a_eq, h.fr_eq⟩)
  | bus hc hc' h =>
    have hop := OpStep.of_busStep h
    refine .inr (.inr ⟨hc', fun hcyc => ?_, hop.a_eq, hop.fr_eq⟩)
    exact fun hnone => (State.halted_eq_true_iff _).1 (hc hcyc) (h.fault_eq.symm.trans hnone)
  | reset hc ht => exact .inr (.inl ⟨hc, by rw [ht]; rfl⟩)
  | map _ _ _ _ _ _ hc h =>
    obtain ⟨_, _, _, rfl⟩ := State.busMap_ok_iff.1 h
    exact .inr (.inr ⟨by simp [hc], by simp [hc], rfl, rfl⟩)
  | unmap _ hc ht =>
    subst ht
    exact .inr (.inr ⟨by simp [hc], by simp [hc], rfl, rfl⟩)

/-- Every bit of FR after a load: Z and N are ORed in (10_state.md R15, 41_load.md R121). -/
theorem getLsbD_loadFlags (p : Params) (v fr : Byte) (k : Fin 8) :
    (loadFlags p v fr).getLsbD k.val =
      (fr.getLsbD k.val || (decide (k = p.flagZ) && decide (v = 0#8)) || (decide (k = p.flagN) && v.getLsbD 7)) := by
  have hz : (zeroBit p v).getLsbD k.val = (decide (k = p.flagZ) && decide (v = 0#8)) := by
    unfold zeroBit
    split
    · next hv => rw [getLsbD_bitMask, decide_eq_true hv, Bool.and_true]
    · next hv => rw [BitVec.getLsbD_zero, decide_eq_false hv, Bool.and_false]
  have hn : (negativeBit p v).getLsbD k.val = (decide (k = p.flagN) && v.getLsbD 7) := by
    unfold negativeBit
    split
    · next hv => rw [getLsbD_bitMask, hv, Bool.and_true]
    · next hv => rw [BitVec.getLsbD_zero, Bool.eq_false_of_not_eq_true hv, Bool.and_false]
  rw [loadFlags, BitVec.getLsbD_or, BitVec.getLsbD_or, hz, hn]

end Sys2Proof.Machine

/-! # The obligations of 10_state.md -/

namespace Sys2Proof.Machine

/-- Settles O54: every step keeps what the invariant speaks of, but a map, whose token is fresh, and an unmap. -/
theorem stepKeepsInvariant : Obligations.StepKeepsInvariant := by
  intro s t hs h
  obtain ⟨r, t0, he, rfl⟩ := step_effect h
  have hs' : (s.setHostCalls s.hostCalls.tail).Inv := hs
  exact he.inv hs'

/-- Settles O6. -/
theorem registerWritesAreMasked : Obligations.RegisterWritesAreMasked :=
  fun _ _ _ v h => State.regRead_regWrite_self v h

/-- Settles O7. -/
theorem registerWriteFrame : Obligations.RegisterWriteFrame := by
  intro s r v
  refine ⟨fun r' => s.regRead_regWrite_ne v, fun r' => s.regWidth_regWrite r r' v, s.gprDecls_regWrite r v, ?_⟩
  cases r <;> exact ⟨_, _, _, _, _, _, _, rfl⟩

/-- Settles O48: the core's own operations run only with no fault recorded, and the bus operations keep the record. -/
theorem faultRecordIsSticky : Obligations.FaultRecordIsSticky := by
  intro s t f h hf
  obtain ⟨r, t0, he, rfl⟩ := step_effect h
  have running : (s.setHostCalls s.hostCalls.tail).halted ≠ false := by simp [State.halted, hf]
  cases he with
  | cycleRan _ h => exact absurd (cycle_cases h).1 running
  | interrupts _ hh _ => exact absurd hh running
  | line _ _ hh _ _ _ => exact absurd hh running
  | bus _ _ h => exact .inl (h.fault_eq.trans hf)
  | reset hc ht => exact .inr ⟨by rw [ht]; rfl, (s.nextCall_eq_iff .reset nofun).1 hc⟩
  | map _ _ _ _ _ _ _ h =>
    obtain ⟨_, _, _, rfl⟩ := State.busMap_ok_iff.1 h
    exact .inl hf
  | unmap _ _ ht => exact .inl (by rw [ht]; exact hf)

/-- Settles O55: the three things a step can do to FR, one clause each, and the third clause from all of them. -/
theorem flagsAreOnlyOredIn : Obligations.FlagsAreOnlyOredIn := by
  intro s t h
  simp only [← s.nextCall_eq_cycle_iff, ne_eq, ← s.nextCall_eq_iff .reset nofun]
  rcases step_accumulator_cases h with ⟨hc, hran⟩ | ⟨hc, hfr⟩ | ⟨hc, hcyc, _, hfr⟩
  · have hbits := fun k => hran.fr ▸ getLsbD_loadFlags s.params t.a s.fr k
    refine ⟨fun _ _ => hbits, fun hnot => ?_, fun _ k => ⟨fun hk => ?_, fun hz hn => ?_⟩, ?_⟩
    · exact hnot.elim (absurd hc) (absurd hran.fault_after)
    · rw [hbits, hk, Bool.true_or, Bool.true_or]
    · rw [hbits, decide_eq_false hz, decide_eq_false hn, Bool.false_and, Bool.false_and, Bool.or_false, Bool.or_false]
    · simp [hc]
  · simp [hc, hfr]
  · refine ⟨fun hc hnone => absurd hnone (hcyc hc), fun _ _ => hfr, fun _ k => ?_, fun h => absurd h hc⟩
    simp [hfr]

/-- Settles O56. -/
theorem onlyLdaWritesAccumulator : Obligations.OnlyLdaWritesAccumulator := by
  intro s t h hchanged hnot
  rcases step_accumulator_cases h with ⟨hc, hran⟩ | ⟨hc, _⟩ | ⟨_, _, ha, hfr⟩
  · exact ⟨s.nextCall_eq_cycle_iff.1 hc, hran.fault_before, hran.fault_after, hran.ir, hran.pc⟩
  · exact absurd ((s.nextCall_eq_iff .reset nofun).1 hc) hnot
  · exact hchanged.elim (absurd ha) (absurd hfr)

/-- Settles O57: by what the step ran; of the core's operations only a cycle and an interrupt dispatch move PC. -/
theorem registerWriters : Obligations.RegisterWriters := by
  intro s t h hnot
  simp only [← s.nextCall_eq_cycle_iff, ne_eq, ← s.nextCall_eq_iff .handleInterrupts nofun]
  obtain ⟨r, t0, he, rfl⟩ := step_effect h
  cases he with
  | cycleRan hc h =>
    obtain ⟨_, ⟨hop, _, hsp, hpc⟩ | ⟨imm, t1, hop, _, _, hsp, hpc, rfl⟩⟩ := cycle_cases h
    · exact ⟨hop.fp_eq, hop.gprs_eq, fun _ => ⟨hsp, hpc.imp_right fun h => ⟨hc, .inl h⟩⟩⟩
    · exact ⟨hop.fp_eq, hop.gprs_eq, fun _ => ⟨hsp, .inr ⟨hc, .inr hpc⟩⟩⟩
  | interrupts hc _ h => exact ⟨h.fp_eq, h.gprs_eq, fun hne => absurd hc hne⟩
  | line _ _ _ h hpc hsp => exact ⟨h.fp_eq, h.gprs_eq, fun _ => ⟨hsp, .inl hpc⟩⟩
  | bus _ _ h =>
    have hop := OpStep.of_busStep h
    exact ⟨hop.fp_eq, hop.gprs_eq, fun _ => ⟨h.sp_eq, .inl h.pc_eq⟩⟩
  | reset hc _ => exact absurd ((s.nextCall_eq_iff .reset nofun).1 hc) hnot
  | map _ _ _ _ _ _ _ h =>
    obtain ⟨_, _, _, rfl⟩ := State.busMap_ok_iff.1 h
    exact ⟨rfl, rfl, fun _ => ⟨rfl, .inl rfl⟩⟩
  | unmap _ _ ht =>
    subst ht
    exact ⟨rfl, rfl, fun _ => ⟨rfl, .inl rfl⟩⟩

/-- Settles O59. -/
theorem onlyMapAndUnmapChangeRegions : Obligations.OnlyMapAndUnmapChangeRegions := by
  intro s t h hchanged
  obtain ⟨r, t0, he, rfl⟩ := step_effect h
  rcases he.layout_cases with hl | ⟨label, device, start, size, remap, tok, hc, hmap⟩ | ⟨token, hc, rfl⟩
  · exact absurd hl.regions hchanged
  · obtain ⟨cs, hq⟩ := State.hostCalls_of_nextCall hc nofun
    obtain ⟨_, _, _, rfl⟩ := State.busMap_ok_iff.1 hmap
    exact .inl ⟨label, device, start, size, remap, cs, hq, _, rfl⟩
  · obtain ⟨cs, hq⟩ := State.hostCalls_of_nextCall hc nofun
    exact .inr ⟨token, cs, hq, by simp [State.busUnmap, bne, Bool.beq_eq_decide_eq]⟩

/-- Settles O8: each step is the write of the exact sum, masked. -/
theorem counterStepsAreMaskedWrites : Obligations.CounterStepsAreMaskedWrites := by
  intro s
  refine ⟨(s.regWrite_pc_add 1).symm, (s.regWrite_pc_add 2).symm, ?_, (s.regWrite_sp_add 2).symm⟩
  have hneg : s.sp - 2#16 = s.sp + BitVec.ofInt 16 (-2) := BitVec.sub_eq_add_neg s.sp 2#16
  rw [hneg, ← s.regWrite_sp_add, Int.sub_eq_add_neg]

/-- Settles O53. -/
theorem resetStateMeetsInvariant : Obligations.ResetStateMeetsInvariant := by
  have hdevices : ∀ d ∈ State.reset.devices, d.Wf := by decide
  have hregions : ∀ r ∈ State.reset.regions, State.reset.RegionWf r := by decide
  have htokens : State.reset.regions.Pairwise (fun r r' => r.token ≠ r'.token) := by decide
  exact ⟨⟨rfl, hdevices, hregions, htokens⟩, rfl, rfl, rfl⟩

end Sys2Proof.Machine

/-! # The bus: regions, accesses, pokes and loads (20_memory.md) -/

namespace Sys2Proof.Machine

/-! ## Which region answers -/

/-- The region found is the first one, from the front, that contains the address. -/
theorem findRegion_eq_some_iff {rs : List Region} {addr : Nat} {r : Region} :
    findRegion rs addr = some r ↔
      ∃ front back, rs = front ++ r :: back ∧ (r.start ≤ addr ∧ addr ≤ r.last) ∧
        ∀ r' ∈ front, ¬(r'.start ≤ addr ∧ addr ≤ r'.last) := by
  simp only [findRegion, List.find?_eq_some_iff_append, Bool.not_eq_true', Bool.eq_false_iff, ne_eq,
    Region.contains_iff]
  constructor
  · rintro ⟨hin, front, back, hrs, hfront⟩
    exact ⟨front, back, hrs, hin, hfront⟩
  · rintro ⟨front, back, hrs, hin, hfront⟩
    exact ⟨hin, front, back, hrs, hfront⟩

theorem State.resolve_eq_none_iff {s : State} {addr : Nat} :
    s.resolve addr = none ↔ ∀ r ∈ s.regions, ¬(r.start ≤ addr ∧ addr ≤ r.last) := by
  simp only [State.resolve, Option.map_eq_none_iff, findRegion, List.find?_eq_none, Region.contains_iff]

theorem State.resolve_eq_some_iff {s : State} {addr i off : Nat} :
    s.resolve addr = some (i, off) ↔
      ∃ r, findRegion s.regions addr = some r ∧ i = r.device ∧ off = r.offset addr := by
  simp only [State.resolve, Option.map_eq_some_iff, Prod.mk.injEq]
  exact exists_congr fun r => and_congr_right fun _ => and_congr eq_comm eq_comm

/-! ## Mapping and unmapping -/

/-- After a map: the new region answers inside its range, the regions behind it answer everywhere else. -/
theorem State.resolve_map {s t : State} {label : String} {device start size tok : Nat} {remap : Bool}
    (h : s.busMap label device start size remap = .ok (tok, t)) (addr : Nat) :
    t.resolve addr =
      if start ≤ addr ∧ addr < start + size then some (device, if remap then addr - start else addr)
      else s.resolve addr := by
  obtain ⟨hsize, _, _, rfl⟩ := State.busMap_ok_iff.1 h
  have hrange : addr ≤ start + size - 1 ↔ addr < start + size := by omega
  simp only [State.setNextToken_resolve, State.resolve_cons, State.newRegion, Region.offset, hrange,
    State.setRegions_self]

theorem State.busUnmap_regions (s : State) (token : Nat) :
    (s.busUnmap token).regions = s.regions.filter (fun r => r.token != token) := rfl

/-- A token of no region unmaps nothing (20_memory.md R51). -/
theorem State.busUnmap_of_forall_ne {s : State} {token : Nat} (h : ∀ r ∈ s.regions, r.token ≠ token) :
    s.busUnmap token = s := by
  have hall : s.regions.filter (fun r => r.token != token) = s.regions :=
    List.filter_eq_self.2 fun r hr => by simpa using h r hr
  rw [State.busUnmap, hall, State.setRegions_self]

theorem State.busUnmap_busUnmap (s : State) (token : Nat) :
    (s.busUnmap token).busUnmap token = s.busUnmap token :=
  State.busUnmap_of_forall_ne fun r hr => by
    rw [State.busUnmap_regions, List.mem_filter] at hr
    simpa using hr.2

/-- Where no two regions share a token, removing the token of one of them removes that region alone. -/
theorem filter_token_of_pairwise {front back : List Region} {r : Region}
    (h : (front ++ r :: back).Pairwise (fun r r' => r.token ≠ r'.token)) :
    (front ++ r :: back).filter (fun r' => r'.token != r.token) = front ++ back ∧ r ∉ front ++ back := by
  obtain ⟨_, hback, hfront⟩ := List.pairwise_append.1 h
  obtain ⟨hr, _⟩ := List.pairwise_cons.1 hback
  have hne : ∀ r' ∈ front ++ back, r'.token ≠ r.token := fun r' hr' =>
    (List.mem_append.1 hr').elim (fun hf => hfront r' hf r List.mem_cons_self) fun hb => (hr r' hb).symm
  refine ⟨?_, fun hmem => hne r hmem rfl⟩
  rw [List.filter_append, List.filter_cons_of_neg (by simp), ← List.filter_append]
  exact List.filter_eq_self.2 fun r' hr' => by simpa using hne r' hr'

/-! ## The highest end -/

/-- `bus.byte_length()` of a list of regions is above the end of each of them. -/
theorem lt_foldr_max_last (rs : List Region) :
    ∀ r ∈ rs, r.last < rs.foldr (fun r n => max (r.last + 1) n) 0 := by
  induction rs with
  | nil => simp
  | cons r rs ih =>
    rw [List.foldr_cons]
    refine List.forall_mem_cons.2 ⟨by omega, fun r' hr' => ?_⟩
    have := ih r' hr'
    omega

/-- It is reached: it is the end of some region plus one, or the list is empty. -/
theorem foldr_max_last_attained (rs : List Region) :
    rs = [] ∨ ∃ r ∈ rs, rs.foldr (fun r n => max (r.last + 1) n) 0 = r.last + 1 := by
  induction rs with
  | nil => exact .inl rfl
  | cons r rs ih =>
    refine .inr ?_
    rw [List.foldr_cons]
    rcases ih with rfl | ⟨r', hr', hlast⟩
    · exact ⟨r, List.mem_cons_self, by simp⟩
    · rw [hlast]
      rcases Nat.le_total (r'.last + 1) (r.last + 1) with hle | hle
      · exact ⟨r, List.mem_cons_self, Nat.max_eq_left hle⟩
      · exact ⟨r', List.mem_cons_of_mem r hr', Nat.max_eq_right hle⟩

/-! ## Storing a byte or a word in one device -/

/-- The state with one byte of one device replaced. -/
def State.storeByte (s : State) (i off : Nat) (b : Byte) : State :=
  s.setDevice i ((s.device i).withMem ((s.device i).mem.write off b))

/-- The state with two bytes of one device replaced by a word's, the low byte at the lower offset (20_memory.md R44). -/
def State.storeWord (s : State) (i off : Nat) (w : Word) : State :=
  s.setDevice i ((s.device i).withMem (((s.device i).mem.write off (lowByte w)).write (off + 1) (highByte w)))

theorem State.device_withMem {s : State} {i : Nat} (hi : i < s.devices.length) (m : Memory) :
    (s.setDevice i ((s.device i).withMem m)).device i = (s.device i).withMem m := State.device_setDevice_self hi _

theorem State.storeByte_eq (s : State) (i off : Nat) (b : Byte) :
    s.storeByte i off b = { s with devices := (s.storeByte i off b).devices } := rfl

theorem State.storeWord_eq (s : State) (i off : Nat) (w : Word) :
    s.storeWord i off w = { s with devices := (s.storeWord i off w).devices } := rfl

theorem State.storeByte_sameBytesBut (s : State) (i off : Nat) (b : Byte) :
    SameBytesBut s (s.storeByte i off b) (fun j o => j = i ∧ o = off) :=
  State.sameBytesBut_setDevice rfl rfl fun o ho => by
    rw [Device.withMem_mem, Memory.read_write, if_neg fun e => ho ⟨rfl, e⟩]

theorem State.storeWord_sameBytesBut (s : State) (i off : Nat) (w : Word) :
    SameBytesBut s (s.storeWord i off w) (fun j o => j = i ∧ (o = off ∨ o = off + 1)) :=
  State.sameBytesBut_setDevice rfl rfl fun o ho => by
    rw [Device.withMem_mem, Memory.read_write, if_neg fun e => ho ⟨rfl, .inr e⟩, Memory.read_write,
      if_neg fun e => ho ⟨rfl, .inl e⟩]

section
variable {s : State} {i off : Nat}

theorem State.storeByte_read (hi : i < s.devices.length) (b : Byte) :
    ((s.storeByte i off b).device i).mem.read off = b := by
  rw [State.storeByte, State.device_withMem hi, Device.withMem_mem, Memory.read_write, if_pos rfl]

theorem State.storeWord_read_low (hi : i < s.devices.length) (w : Word) :
    ((s.storeWord i off w).device i).mem.read off = lowByte w := by
  rw [State.storeWord, State.device_withMem hi, Device.withMem_mem, Memory.read_write, if_neg (by omega),
    Memory.read_write, if_pos rfl]

theorem State.storeWord_read_high (hi : i < s.devices.length) (w : Word) :
    ((s.storeWord i off w).device i).mem.read (off + 1) = highByte w := by
  rw [State.storeWord, State.device_withMem hi, Device.withMem_mem, Memory.read_write, if_pos rfl]

end

/-- What a RAM word write that does not fit leaves: one draw taken, and the low byte written if the draw says so and it
fits (20_memory.md R44; entry 8). -/
def State.failedWordWrite (s : State) (i off : Nat) (w : Word) : State :=
  (if Config.wordWriteDraw s.draws = true ∧ off < (s.device i).capacity then s.storeByte i off (lowByte w)
    else s).setDraws (s.draws + 1)

theorem State.failedWordWrite_eq (s : State) (i off : Nat) (w : Word) :
    s.failedWordWrite i off w =
      { s with devices := (s.failedWordWrite i off w).devices, draws := s.draws + 1 } := by
  unfold State.failedWordWrite
  split <;> rfl

theorem State.failedWordWrite_sameBytesBut (s : State) (i off : Nat) (w : Word) :
    SameBytesBut s (s.failedWordWrite i off w) (fun j o => j = i ∧ o = off ∧ off < (s.device i).capacity) := by
  unfold State.failedWordWrite
  split
  · next h => exact (s.storeByte_sameBytesBut i off (lowByte w)).mono fun j o ⟨hj, ho⟩ => ⟨hj, ho, h.2⟩
  · exact .refl s _

theorem State.failedWordWrite_read {s : State} {i off : Nat} (h : off < (s.device i).capacity) (w : Word) :
    ((s.failedWordWrite i off w).device i).mem.read off =
      if Config.wordWriteDraw s.draws then lowByte w else (s.device i).mem.read off := by
  have hi : i < s.devices.length := State.lt_of_capacity (Nat.zero_lt_of_lt h)
  unfold State.failedWordWrite
  cases Config.wordWriteDraw s.draws with
  | true => rw [if_pos ⟨rfl, h⟩, State.setDraws_device, State.storeByte_read hi, if_pos rfl]
  | false => rw [if_neg (by simp), State.setDraws_device, if_neg (by simp)]

/-- A byte read through the bus, from the device bytes it resolves to. -/
theorem State.peek_eq_some {s : State} {addr i off : Nat} (h : s.resolve addr = some (i, off))
    (hc : off < (s.device i).capacity) : s.peek addr = some ((s.device i).mem.read off) := by
  rw [State.peek_of_resolve h, if_pos hc]

/-! ## What each bus access does -/

section
variable {s : State} {addr i off : Nat}

/-- A write to a ROM is dropped and sets its `accessed` bit (20_memory.md R43). -/
theorem Device.write_rom {d : Device} (h : d.isRom = true) (off : Nat) (b : Byte) :
    d.write off b = .ok () d.touch := by
  rcases d.write_cases off b with ⟨_, hw⟩ | ⟨hk, _⟩ | ⟨hk, _⟩
  · exact hw
  all_goals simp [d.kind_ram_iff, h] at hk

theorem Device.write16_rom {d : Device} (h : d.isRom = true) (off : Nat) (w : Word) (low : Bool) :
    d.write16 off w low = .ok () d.touch := by
  rcases d.write16_cases off w low with ⟨_, hw⟩ | ⟨hk, _⟩ | ⟨hk, _⟩ | ⟨hk, _⟩
  · exact hw
  all_goals simp [d.kind_ram_iff, h] at hk

theorem State.busRead16_of_resolve (h : s.resolve addr = some (i, off)) (hc : off + 1 < (s.device i).capacity) :
    s.busRead16 addr =
      .ok (joinBytes ((s.device i).mem.read off) ((s.device i).mem.read (off + 1))) (s.touchAt addr) := by
  rw [State.touchAt_of_resolve h]
  exact State.busAccess_ok h (if_pos hc)

theorem State.busRead_past (h : s.resolve addr = some (i, off)) (hc : (s.device i).capacity ≤ off) :
    s.busRead addr = .fail (.device { addr, info := { offset := off, width := .byte, dir := .read } }) s := by
  have hfail := State.busAccess_fail h (f := Device.read) (if_neg (Nat.not_lt.2 hc))
  rwa [State.setDevice_device] at hfail

theorem State.busRead16_past (h : s.resolve addr = some (i, off)) (hc : (s.device i).capacity ≤ off + 1) :
    s.busRead16 addr = .fail (.device { addr, info := { offset := off, width := .word, dir := .read } }) s := by
  have hfail := State.busAccess_fail h (f := Device.read16) (if_neg (Nat.not_lt.2 hc))
  rwa [State.setDevice_device] at hfail

theorem State.busWrite_ram (h : s.RamByte addr i off) (b : Byte) :
    s.busWrite addr b = .ok () (s.storeByte i off b) := by
  obtain ⟨hres, hk, hc⟩ := h
  exact State.busAccess_ok hres (by simp [Device.write, hk, hc])

theorem State.busWrite_rom (h : s.RomAt addr i off) (b : Byte) : s.busWrite addr b = .ok () (s.touchAt addr) := by
  rw [State.touchAt_of_resolve h.1]
  exact State.busAccess_ok h.1 (Device.write_rom h.2 off b)

theorem State.busWrite_past (h : s.resolve addr = some (i, off)) (hk : (s.device i).kind = .ram)
    (hc : (s.device i).capacity ≤ off) (b : Byte) :
    s.busWrite addr b = .fail (.device { addr, info := { offset := off, width := .byte, dir := .write } }) s := by
  have hfail := State.busAccess_fail h (f := fun d off => d.write off b) (d := s.device i)
    (e := { offset := off, width := .byte, dir := .write }) (by simp [Device.write, hk, hc])
  rwa [State.setDevice_device] at hfail

theorem State.busWrite16_ram (h : s.RamWord addr i off) (w : Word) :
    s.busWrite16 addr w = .ok () (s.storeWord i off w) := by
  obtain ⟨hres, hk, hc⟩ := h
  have hw (low : Bool) : (s.device i).write16 off w low =
      .ok () ((s.device i).withMem (((s.device i).mem.write off (lowByte w)).write (off + 1) (highByte w))) := by
    simp [Device.write16, hk, hc]
  rw [State.busWrite16, State.busAccess_ok hres (hw _)]
  rfl

theorem State.busWrite16_rom (h : s.RomAt addr i off) (w : Word) :
    s.busWrite16 addr w = .ok () (s.touchAt addr) := by
  rw [State.touchAt_of_resolve h.1, State.busWrite16, State.busAccess_ok h.1 (Device.write16_rom h.2 off w _)]
  rfl

/-- A RAM word write that does not fit fails, whatever the draw says of its low byte (20_memory.md R44). -/
theorem State.busWrite16_past (h : s.resolve addr = some (i, off)) (hk : (s.device i).kind = .ram)
    (hc : (s.device i).capacity ≤ off + 1) (w : Word) :
    s.busWrite16 addr w = .fail (.device { addr, info := { offset := off, width := .word, dir := .write } })
      (s.failedWordWrite i off w) := by
  unfold State.busWrite16 State.failedWordWrite
  rcases (s.device i).write16_cases off w (Config.wordWriteDraw s.draws) with
    ⟨hrom, _⟩ | ⟨_, hfits, _⟩ | ⟨_, _, hdraw, hlow, hw⟩ | ⟨_, _, hlow, hw⟩
  · simp [Device.isRom, hk] at hrom
  · omega
  · rw [State.busAccess_fail h hw, if_pos ⟨hdraw, hlow⟩]
    rfl
  · rw [State.busAccess_fail h hw, State.setDevice_device, if_neg fun ⟨hdraw, hlt⟩ => Nat.not_lt.2 (hlow hdraw) hlt]
    rfl

theorem State.memWrite16_past (h : s.resolve addr = some (i, off)) (hk : (s.device i).kind = .ram)
    (hc : (s.device i).capacity ≤ off + 1) (w : Word) :
    s.memWrite16 addr w = (BusResult.fail (.device { addr, info := { offset := off, width := .word, dir := .write } })
      (s.failedWordWrite i off w)).settle () := by
  rw [State.memWrite16, State.busWrite16_past h hk hc]

end

/-! ## Host pokes -/

@[simp] theorem BusResult.poke_ok {α : Type} (reply : α → HostReply) (a : α) (s : State) :
    (BusResult.ok a s).poke reply = .next (s.setReply (some (reply a))) := rfl

@[simp] theorem BusResult.poke_fail {α : Type} (reply : α → HostReply) (f : BusFail) (s : State) :
    (BusResult.fail f s : BusResult α).poke reply = .next (s.setReply (some (.failed f))) := rfl

theorem State.hostCall_read (s : State) (addr : Nat) : hostCall (.read addr) s = (s.busRead addr).poke .byte := rfl

theorem State.hostCall_read16 (s : State) (addr : Nat) :
    hostCall (.read16 addr) s = (s.busRead16 addr).poke .word := rfl

theorem State.hostCall_write (s : State) (addr : Nat) (v : Int) :
    hostCall (.write addr v) s = (s.busWrite addr (BitVec.ofInt 8 v)).poke (fun _ => .done) := rfl

theorem State.hostCall_write16 (s : State) (addr : Nat) (v : Int) :
    hostCall (.write16 addr v) s = (s.busWrite16 addr (BitVec.ofInt 16 v)).poke (fun _ => .done) := rfl

/-- A host's byte is its integer modulo 2^8 (20_memory.md R63; the spec's decision D37). -/
theorem ofInt_byte (v : Int) : BitVec.ofInt 8 v = BitVec.ofNat 8 (v % 256).toNat := by
  apply BitVec.eq_of_toNat_eq
  rw [BitVec.toNat_ofInt, BitVec.toNat_ofNat]
  omega

theorem lowByte_ofInt (v : Int) : lowByte (BitVec.ofInt 16 v) = BitVec.ofNat 8 (v % 256).toNat := by
  rw [lowByte_eq_ofNat, BitVec.toNat_ofInt]
  congr 1
  omega

theorem highByte_ofInt (v : Int) : highByte (BitVec.ofInt 16 v) = BitVec.ofNat 8 (v / 256 % 256).toNat := by
  rw [highByte_eq_ofNat, BitVec.toNat_ofInt]
  congr 1
  omega

/-! ## Loads -/

theorem Device.touch_romAccessed {d : Device} (h : d.isRom = true) : d.touch.romAccessed = true := by
  cases hk : d.kind with
  | ram => simp [Device.isRom, hk] at h
  | rom _ => simp [Device.touch, Device.romAccessed, hk]

section
variable {s : State} {addr i off : Nat} {data : List Byte}

/-- What a load does is what the device its first address resolves to does (20_memory.md R61). -/
theorem State.busLoad_of_resolve (h : s.resolve addr = some (i, off)) (data : List Byte) :
    s.busLoad data addr = ((s.device i).load data off).map (s.setDevice i) := by
  simp only [State.busLoad, h]
  cases (s.device i).load data off <;> rfl

/-- A load into a mapped device succeeds exactly where the image fits and no accessed ROM refuses it, and then stores the
image (20_memory.md R45, R48). -/
theorem State.busLoad_ok_iff (h : s.resolve addr = some (i, off)) {t : State} :
    s.busLoad data addr = .ok t ↔
      off + data.length ≤ (s.device i).capacity ∧ (s.device i).romAccessed = false ∧
        t = s.setDevice i ((s.device i).withMem ((s.device i).mem.store off data)) := by
  rw [State.busLoad_of_resolve h]
  constructor
  · intro hload
    cases hd : (s.device i).load data off with
    | error e => rw [hd] at hload; cases hload
    | ok d =>
      obtain ⟨hfits, hopen, rfl⟩ := (Device.load_ok_iff _ _ _ _).1 hd
      rw [hd] at hload
      cases hload
      exact ⟨hfits, hopen, rfl⟩
  · rintro ⟨hfits, hopen, rfl⟩
    rw [(Device.load_ok_iff _ _ _ _).2 ⟨hfits, hopen, rfl⟩]
    rfl

/-- An image that does not fit is refused, as an overflow unless the device is an accessed ROM (20_memory.md R45). -/
theorem Device.load_overflow {d : Device} (h : d.capacity < off + data.length) :
    d.load data off =
      .error (if d.romAccessed && !Config.loadOverflowFirst then .romLoadRejected else .loadOverflow) := if_pos h

/-- An accessed ROM refuses an image that fits (20_memory.md R48). -/
theorem Device.load_rejected {d : Device} (hfits : off + data.length ≤ d.capacity) (hacc : d.romAccessed = true) :
    d.load data off = .error .romLoadRejected := by
  rw [Device.load, if_neg (Nat.not_lt.2 hfits), if_pos hacc]

/-- A byte of a loaded image, read through the bus. -/
theorem State.peek_loaded {addr' o : Nat} (hres : s.resolve addr' = some (i, o))
    (hfits : off + data.length ≤ (s.device i).capacity) (hlo : off ≤ o) (hhi : o < off + data.length) :
    (s.setDevice i ((s.device i).withMem ((s.device i).mem.store off data))).peek addr' = data[o - off]? := by
  have hc : o < (s.device i).capacity := Nat.lt_of_lt_of_le hhi hfits
  have hi : i < s.devices.length := State.lt_of_capacity (Nat.zero_lt_of_lt hc)
  have hlen : o - off < data.length := by omega
  rw [State.peek_withMem hi _ hres, if_pos rfl, if_pos hc, Memory.read_store, if_pos ⟨hlo, hhi⟩,
    List.getElem?_eq_getElem hlen, List.getD_eq_getElem _ _ hlen]

theorem State.sameBytesBut_loaded (s : State) (i off : Nat) (data : List Byte) :
    SameBytesBut s (s.setDevice i ((s.device i).withMem ((s.device i).mem.store off data)))
      (fun j o => j = i ∧ off ≤ o ∧ o < off + data.length) :=
  State.sameBytesBut_setDevice rfl rfl fun o ho => by
    rw [Device.withMem_mem, Memory.read_store, if_neg fun hin => ho ⟨rfl, hin⟩]

end

/-! ## What the core can reach -/

/-- An address the core can form: any 16-bit one, and those of the interrupt vectors (20_memory.md R72). -/
def CoreAddr (p : Params) (addr : Nat) : Prop :=
  addr < 0x10000 ∨ ∃ l : Line, addr = p.vectorBase + 2 * l.val

/-- Another region list answers as the machine's own for every address the core can form. -/
def State.AgreesWith (s : State) (rs : List Region) : Prop :=
  ∀ addr, CoreAddr s.params addr → (s.setRegions rs).resolve addr = s.resolve addr

theorem coreAddr_toNat (p : Params) (v : Word) : CoreAddr p v.toNat := .inl v.isLt

/-- A bus result, with another region list in the state it leaves. -/
def BusResult.withRegions {α : Type} (rs : List Region) : BusResult α → BusResult α
  | .ok a s => .ok a (s.setRegions rs)
  | .fail f s => .fail f (s.setRegions rs)

/-- A result of the core, with another region list in the state it leaves. -/
def Res.withRegions {α : Type} (rs : List Region) : Res α → Res α
  | .ok a s => .ok a (s.setRegions rs)
  | .raised s => .raised (s.setRegions rs)

/-- The outcome of a step, with another region list in the next state. -/
def outcomeWithRegions (rs : List Region) : Host.Outcome State Fault Refusal → Host.Outcome State Fault Refusal
  | .next s => .next (s.setRegions rs)
  | .fault f => .fault f
  | .refused r => .refused r

section
variable {rs : List Region} {s : State} {α β : Type}

theorem State.AgreesWith.of_sameLayout {t : State} (h : s.AgreesWith rs) (ht : SameLayout s t) : t.AgreesWith rs := by
  intro addr haddr
  have hres : t.resolve addr = s.resolve addr := by rw [State.resolve, ht.regions, State.resolve]
  rw [hres]
  exact h addr (ht.params ▸ haddr)

/-- Two operations in sequence give the same under another region list if both do: the first leaves the parameters and the
regions, so the second starts from a state that agrees as well. -/
theorem Res.bind_withRegions {r r' : Res α} {f : α → State → Res β} (hs : s.AgreesWith rs) (hsteps : r.Steps s)
    (hr : r' = r.withRegions rs)
    (hf : ∀ a t, t.AgreesWith rs → f a (t.setRegions rs) = (f a t).withRegions rs) :
    r'.bind f = (r.bind f).withRegions rs := by
  subst hr
  cases r with
  | raised t => rfl
  | ok a t => exact hf a t (hs.of_sameLayout hsteps.1.sameLayout)

theorem Res.andThen_withRegions {r r' : Res α} {f : α → State → Host.Outcome State Fault Refusal}
    (hs : s.AgreesWith rs) (hsteps : r.Steps s) (hr : r' = r.withRegions rs)
    (hf : ∀ a t, t.AgreesWith rs → f a (t.setRegions rs) = outcomeWithRegions rs (f a t)) :
    r'.andThen f = outcomeWithRegions rs (r.andThen f) := by
  subst hr
  cases r with
  | raised t => rfl
  | ok a t => exact hf a t (hs.of_sameLayout hsteps.1.sameLayout)

@[simp] theorem State.setRegions_halted (s : State) (rs : List Region) : (s.setRegions rs).halted = s.halted := rfl

/-! ### Memory accesses -/

theorem State.busAccess_setRegions {addr : Nat} (f : Device → Nat → DevResult α)
    (h : (s.setRegions rs).resolve addr = s.resolve addr) :
    (s.setRegions rs).busAccess addr f = (s.busAccess addr f).withRegions rs := by
  rcases s.busAccess_cases addr f with ⟨hres, hbus⟩ | ⟨i, off, hres, ⟨a, d, hd, hbus⟩ | ⟨e, d, hd, hbus⟩⟩
  · rw [hbus, State.busAccess_unmapped f (h.trans hres)]; rfl
  · rw [hbus, State.busAccess_ok (h.trans hres) hd]; rfl
  · rw [hbus, State.busAccess_fail (h.trans hres) hd]; rfl

theorem BusResult.countDraw_withRegions (r : BusResult Unit) :
    (r.withRegions rs).countDraw = r.countDraw.withRegions rs := by
  rcases r with _ | ⟨_ | _, _⟩ <;> rfl

theorem BusResult.settle_withRegions (dflt : α) (r : BusResult α) :
    (r.withRegions rs).settle dflt = (r.settle dflt).withRegions rs := by
  rcases r with _ | ⟨_ | r, t⟩
  · rfl
  · rfl
  · cases hp : t.params.policy with
    | halt => rw [BusResult.settle_halt dflt r hp]; exact BusResult.settle_halt dflt r hp
    | sentinel => rw [BusResult.settle_sentinel dflt r hp]; exact BusResult.settle_sentinel dflt r hp

variable (hs : s.AgreesWith rs)
include hs

theorem State.memRead8_setRegions {addr : Nat} (ha : CoreAddr s.params addr) :
    (s.setRegions rs).memRead8 addr = (s.memRead8 addr).withRegions rs := by
  rw [State.memRead8, State.busRead, State.busAccess_setRegions _ (hs addr ha), BusResult.settle_withRegions]
  rfl

theorem State.memRead16_setRegions {addr : Nat} (ha : CoreAddr s.params addr) :
    (s.setRegions rs).memRead16 addr = (s.memRead16 addr).withRegions rs := by
  rw [State.memRead16, State.busRead16, State.busAccess_setRegions _ (hs addr ha), BusResult.settle_withRegions]
  rfl

theorem State.memWrite8_setRegions {addr : Nat} (ha : CoreAddr s.params addr) (v : Byte) :
    (s.setRegions rs).memWrite8 addr v = (s.memWrite8 addr v).withRegions rs := by
  rw [State.memWrite8, State.busWrite, State.busAccess_setRegions _ (hs addr ha), BusResult.settle_withRegions]
  rfl

theorem State.memWrite16_setRegions {addr : Nat} (ha : CoreAddr s.params addr) (v : Word) :
    (s.setRegions rs).memWrite16 addr v = (s.memWrite16 addr v).withRegions rs := by
  rw [State.memWrite16, State.busWrite16, State.busAccess_setRegions _ (hs addr ha),
    BusResult.countDraw_withRegions, BusResult.settle_withRegions]
  rfl

/-! ### The stack and the interrupt operations -/

theorem State.push_setRegions (v : Word) : (s.setRegions rs).push v = (s.push v).withRegions rs :=
  Res.bind_withRegions hs (s.memWrite16_steps _ v) (State.memWrite16_setRegions hs (coreAddr_toNat _ s.sp) v)
    fun _ _ _ => rfl

theorem State.readIE_setRegions : (s.setRegions rs).readIE = s.readIE.withRegions rs :=
  State.memRead8_setRegions hs (coreAddr_toNat _ _)

theorem State.readIF_setRegions : (s.setRegions rs).readIF = s.readIF.withRegions rs :=
  State.memRead8_setRegions hs (coreAddr_toNat _ _)

theorem State.writeIF_setRegions (v : Byte) : (s.setRegions rs).writeIF v = (s.writeIF v).withRegions rs :=
  State.memWrite8_setRegions hs (coreAddr_toNat _ _) v

theorem State.ifSet_setRegions (l : Line) : (s.setRegions rs).ifSet l = (s.ifSet l).withRegions rs :=
  Res.bind_withRegions hs (s.memRead8_steps _) (State.readIF_setRegions hs)
    fun v _ ht => State.writeIF_setRegions ht (v ||| bitMask l)

theorem State.ifClear_setRegions (l : Line) : (s.setRegions rs).ifClear l = (s.ifClear l).withRegions rs :=
  Res.bind_withRegions hs (s.memRead8_steps _) (State.readIF_setRegions hs)
    fun v _ ht => State.writeIF_setRegions ht (v &&& ~~~ bitMask l)

theorem State.isInterruptRequested_setRegions (l : Line) :
    (s.setRegions rs).isInterruptRequested l = (s.isInterruptRequested l).withRegions rs :=
  Res.bind_withRegions hs (s.memRead8_steps _) (State.readIF_setRegions hs) fun _ _ _ => rfl

theorem State.takeInterrupt_setRegions (l : Line) :
    (s.setRegions rs).takeInterrupt l = (s.takeInterrupt l).withRegions rs :=
  Res.bind_withRegions hs (s.push_steps s.pc) (State.push_setRegions hs s.pc) fun _ t ht =>
  Res.bind_withRegions ht (t.memRead16_steps _) (State.memRead16_setRegions ht (.inr ⟨l, rfl⟩)) fun h u hu =>
  have hu' : (u.setPc h).AgreesWith rs := hu
  State.ifClear_setRegions hu' l

theorem State.handleInterrupts_setRegions :
    (s.setRegions rs).handleInterrupts = s.handleInterrupts.withRegions rs := by
  refine Res.bind_withRegions hs (s.memRead8_steps _) (State.readIE_setRegions hs) fun ie t ht => ?_
  split
  · rfl
  · refine Res.bind_withRegions ht (t.memRead8_steps _) (State.readIF_setRegions ht) fun pend u hu => ?_
    split
    · rfl
    · cases lowestLine ie pend with
      | none => rfl
      | some l =>
        exact Res.bind_withRegions hu (u.takeInterrupt_steps l) (State.takeInterrupt_setRegions hu l)
          fun _ _ _ => rfl

/-! ### The cycle -/

theorem State.fetch8_setRegions : (s.setRegions rs).fetch8 = s.fetch8.withRegions rs :=
  Res.bind_withRegions hs (s.memRead8_steps _) (State.memRead8_setRegions hs (coreAddr_toNat _ s.pc))
    fun _ _ _ => rfl

theorem State.fetch16_setRegions : (s.setRegions rs).fetch16 = s.fetch16.withRegions rs :=
  Res.bind_withRegions hs (s.memRead16_steps _) (State.memRead16_setRegions hs (coreAddr_toNat _ s.pc))
    fun _ _ _ => rfl

theorem State.fetchInstruction_setRegions :
    (s.setRegions rs).fetchInstruction = s.fetchInstruction.withRegions rs :=
  Res.bind_withRegions hs s.fetch8_steps (State.fetch8_setRegions hs) fun _ _ _ => rfl

theorem State.fetchOperand_setRegions (f : Format) :
    (s.setRegions rs).fetchOperand f = (s.fetchOperand f).withRegions rs := by
  cases f with
  | op => rfl
  | i8 => exact State.fetch8_setRegions hs
  | i16 => exact State.fetch16_setRegions hs

omit hs in
theorem exec_setRegions (i : Instr) : exec i (s.setRegions rs) = outcomeWithRegions rs (exec i s) := by
  cases i with
  | ldaImm imm => rfl

theorem runEntry_setRegions (pc0 : Word) (op : Byte) :
    runEntry pc0 op (s.setRegions rs) = outcomeWithRegions rs (runEntry pc0 op s) := by
  unfold runEntry
  rw [State.setRegions_params]
  cases decodeOpcode s.params op with
  | none => rfl
  | some e =>
    exact Res.andThen_withRegions hs (s.fetchOperand_steps _) (State.fetchOperand_setRegions hs _)
      fun _ _ _ => exec_setRegions _

theorem cycle_setRegions : cycle (s.setRegions rs) = outcomeWithRegions rs (cycle s) := by
  unfold cycle
  rw [State.setRegions_halted]
  split
  · rfl
  · exact Res.andThen_withRegions hs s.fetchInstruction_steps (State.fetchInstruction_setRegions hs)
      fun op _ ht => runEntry_setRegions ht s.pc op

/-! ### The host's calls of the core -/

omit hs in
theorem State.coreCall_setRegions {body : State → Res α} (reply : α → HostReply)
    (hb : body (s.setRegions rs) = (body s).withRegions rs) :
    (s.setRegions rs).coreCall body reply = outcomeWithRegions rs (s.coreCall body reply) := by
  unfold State.coreCall
  rw [State.setRegions_halted, hb]
  split
  · rfl
  · cases body s <;> rfl

omit hs in
theorem State.lineCall_setRegions {body : State → Line → Res α} (line : Int) (reply : α → HostReply)
    (hb : ∀ l, body (s.setRegions rs) l = (body s l).withRegions rs) :
    (s.setRegions rs).lineCall line body reply = outcomeWithRegions rs (s.lineCall line body reply) := by
  unfold State.lineCall
  cases lineOf line with
  | none => rfl
  | some l => exact State.coreCall_setRegions reply (hb l)

theorem State.cycleCall_setRegions : (s.setRegions rs).cycleCall = outcomeWithRegions rs s.cycleCall := by
  unfold State.cycleCall
  rw [State.setRegions_halted, cycle_setRegions hs]
  split
  · rfl
  · cases cycle s <;> rfl

/-- Every call but those of the bus and `reset()` gives the same under a region list that agrees on the core's addresses. -/
theorem hostCall_setRegions {c : HostCall} (hbus : isBusCall c = false) (hreset : c ≠ .reset) :
    hostCall c (s.setRegions rs) = outcomeWithRegions rs (hostCall c s) := by
  cases c with
  | cycle => exact State.cycleCall_setRegions hs
  | handleInterrupts => exact State.coreCall_setRegions _ (State.handleInterrupts_setRegions hs)
  | requestInterrupt line => exact State.lineCall_setRegions line _ (State.ifSet_setRegions hs)
  | isInterruptRequested line => exact State.lineCall_setRegions line _ (State.isInterruptRequested_setRegions hs)
  | clearInterruptFlag line => exact State.lineCall_setRegions line _ (State.ifClear_setRegions hs)
  | reset => exact absurd rfl hreset
  | map | unmap | load | read | read16 | write | write16 | byteLength | inspect => cases hbus

theorem step_setRegions (hcalls : ∀ c cs, s.hostCalls = c :: cs → isBusCall c = false ∧ c ≠ .reset) :
    step (s.setRegions rs) = outcomeWithRegions rs (step s) := by
  unfold step
  rw [State.setRegions_hostCalls]
  cases hq : s.hostCalls with
  | nil => exact cycle_setRegions hs
  | cons c cs =>
    obtain ⟨hbus, hreset⟩ := hcalls c cs hq
    have hs' : (s.setHostCalls cs).AgreesWith rs := hs
    exact hostCall_setRegions hs' hbus hreset

end

end Sys2Proof.Machine

/-! # The obligations of 20_memory.md -/

namespace Sys2Proof.Machine

/-- Settles O25: the step commutes with the exchange of the region list. -/
theorem coreFormsOnlyItsAddresses : Obligations.CoreFormsOnlyItsAddresses := by
  intro s rs hagrees hcalls
  have hstep := step_setRegions (s := s) (rs := rs) hagrees hcalls
  exact ⟨fun t ht => by rw [hstep, ht]; rfl, fun r hr => by rw [hstep, hr]; rfl⟩

/-- Settles O16: both clauses are what the search from the front finds. -/
theorem resolveTakesFirstRegion : Obligations.ResolveTakesFirstRegion := by
  intro s addr
  refine ⟨fun i off => ?_, State.resolve_eq_none_iff⟩
  simp only [State.resolve_eq_some_iff, findRegion_eq_some_iff, Region.offset]
  constructor
  · rintro ⟨r, ⟨front, back, hrs, hin, hfront⟩, hi, hoff⟩
    exact ⟨front, r, back, hrs, hin, hfront, hi, hoff⟩
  · rintro ⟨front, r, back, hrs, hin, hfront, hi, hoff⟩
    exact ⟨r, ⟨front, back, hrs, hin, hfront⟩, hi, hoff⟩

/-- Settles O17. -/
theorem mapShadowsEarlierRegions : Obligations.MapShadowsEarlierRegions := by
  intro s label d start size remap
  refine ⟨fun hsize => by simp [State.busMap, hsize], fun hsize hd => ?_⟩
  have hmap : s.busMap label d start size remap = .ok (s.nextToken, _) :=
    State.busMap_ok_iff.2 ⟨hsize, hd, rfl, rfl⟩
  refine ⟨_, hmap, fun addr hlo hhi => ?_, fun addr hout => ?_, ⟨_, rfl, rfl⟩, rfl⟩
  · rw [State.resolve_map hmap, if_pos ⟨hlo, hhi⟩]
  · rw [State.resolve_map hmap, if_neg hout]

/-- Settles O18: the invariant gives every region a token of its own, and a map a token above all of them. -/
theorem unmapRemovesItsRegion : Obligations.UnmapRemovesItsRegion := by
  intro s ⟨_, _, hwf, htokens⟩
  refine ⟨fun r hr => ?_, fun tok => State.busUnmap_of_forall_ne, fun t label d start size tok remap hmap => ?_⟩
  · obtain ⟨front, back, hrs⟩ := List.append_of_mem hr
    obtain ⟨hfilter, hnot⟩ := filter_token_of_pairwise (hrs ▸ htokens)
    refine ⟨front, back, hrs, ?_, hnot, s.busUnmap_busUnmap r.token⟩
    rw [State.busUnmap, hrs, hfilter]
    rfl
  · obtain ⟨_, _, rfl, rfl⟩ := State.busMap_ok_iff.1 hmap
    refine ⟨?_, rfl⟩
    have hfresh : s.regions.filter (fun r => r.token != s.nextToken) = s.regions :=
      List.filter_eq_self.2 fun r hr => by
        obtain ⟨_, _, hlt⟩ := hwf r hr
        simpa using Nat.ne_of_lt hlt
    rw [State.busUnmap_regions, State.setNextToken_regions, State.setRegions_regions,
      List.filter_cons_of_neg (by simp [State.newRegion]), hfresh]

/-- Settles O19. -/
theorem byteLengthIsHighestEnd : Obligations.ByteLengthIsHighestEnd := by
  intro s
  refine ⟨lt_foldr_max_last s.regions, fun hnil => by rw [State.busByteLength, hnil]; rfl, fun hne => ?_⟩
  exact (foldr_max_last_attained s.regions).resolve_left hne

/-- Settles O20. -/
theorem byteWriteThenRead : Obligations.ByteWriteThenRead := by
  intro s addr i off v h
  have ⟨hres, hkind, hc⟩ := h
  have hi : i < s.devices.length := State.lt_of_capacity (Nat.zero_lt_of_lt hc)
  have hsame := s.storeByte_sameBytesBut i off v
  obtain ⟨hkeepKind, hkeepCap, _⟩ := hsame.2 i
  have hres' : (s.storeByte i off v).resolve addr = some (i, off) := hres
  have hpeek : (s.storeByte i off v).peek addr = some v := by
    rw [State.peek_eq_some hres' (hkeepCap ▸ hc), State.storeByte_read hi]
  refine ⟨s.storeByte i off v, State.memWrite8_ram h v, ?_, hpeek, hsame, s.storeByte_eq i off v⟩
  rw [State.memRead8_of_peek hpeek, State.touchAt_of_ram hres' (hkeepKind.trans hkind)]

/-- Settles O21. -/
theorem wordWriteIsLittleEndian : Obligations.WordWriteIsLittleEndian := by
  intro s addr i off w h
  have ⟨hres, hkind, hc⟩ := h
  have hi : i < s.devices.length := State.lt_of_capacity (Nat.zero_lt_of_lt hc)
  have hsame := s.storeWord_sameBytesBut i off w
  obtain ⟨hkeepKind, hkeepCap, _⟩ := hsame.2 i
  have hres' : (s.storeWord i off w).resolve addr = some (i, off) := hres
  refine ⟨s.storeWord i off w, State.memWrite16_ram h w, ?_, ?_, fun hnext => ?_, hsame, s.storeWord_eq i off w⟩
  · rw [State.memRead16_of_resolve hres' (hkeepCap ▸ hc), State.storeWord_read_low hi, State.storeWord_read_high hi,
      joinBytes_lowByte_highByte, State.touchAt_of_ram hres' (hkeepKind.trans hkind)]
  · rw [State.peek_eq_some hres' (hkeepCap ▸ Nat.lt_of_succ_lt hc), State.storeWord_read_low hi, lowByte_eq_ofNat]
  · have hnext' : (s.storeWord i off w).resolve (addr + 1) = some (i, off + 1) := hnext
    rw [State.peek_eq_some hnext' (hkeepCap ▸ hc), State.storeWord_read_high hi, highByte_eq_ofNat]

/-- Settles O22. -/
theorem wordReadStaysInOneDevice : Obligations.WordReadStaysInOneDevice := by
  intro s addr i off h
  refine ⟨fun hc => ⟨s.touchAt addr, ?_, s.touchAt_peek addr, rfl⟩, fun hc hp => ?_, fun hc hp => ?_⟩
  · rw [State.memRead16_of_resolve h hc, joinBytes_eq_or]
  · rw [State.memRead16_past h hc, BusResult.settle_halt _ _ hp]
    rfl
  · rw [State.memRead16_past h hc, BusResult.settle_sentinel _ _ hp]
    rfl

/-- Settles O24. -/
theorem failingWordWriteDrawsLowByte : Obligations.FailingWordWriteDrawsLowByte := by
  intro s addr i off w h hk hc
  have hsame := s.failedWordWrite_sameBytesBut i off w
  have heq := s.failedWordWrite_eq i off w
  have hparams : (s.failedWordWrite i off w).params = s.params := by rw [heq]
  have hlog : (s.failedWordWrite i off w).devlog = s.devlog := by rw [heq]
  refine ⟨s.failedWordWrite i off w, heq, hsame, fun addr' hres hlt => ?_, fun hp => ?_, fun hp => ?_⟩
  · have hres' : (s.failedWordWrite i off w).resolve addr' = some (i, off) := by rw [heq]; exact hres
    obtain ⟨_, hkeepCap, _⟩ := hsame.2 i
    rw [State.peek_eq_some hres' (hkeepCap ▸ hlt), State.failedWordWrite_read hlt, ← lowByte_eq_ofNat,
      State.peek_eq_some hres hlt]
    split <;> rfl
  · rw [State.memWrite16_past h hk hc, BusResult.settle_halt _ _ (hparams ▸ hp)]
    rfl
  · rw [State.memWrite16_past h hk hc, BusResult.settle_sentinel _ _ (hparams ▸ hp), hlog]
    rfl

/-- Settles O28: whatever a bus access answers, it leaves all but the devices and the count of draws. -/
theorem hostPokesTouchNoCore : Obligations.HostPokesTouchNoCore := by
  intro s c addr v hc
  constructor
  · obtain ⟨r, t, h, hcall⟩ := hostCall_cases c s
    have hbus : BusStep s t := by rcases hc with rfl | rfl | rfl | rfl <;> exact hcall
    obtain ⟨ds, n, _, rfl⟩ := hbus
    exact ⟨_, h, rfl⟩
  · intro hres
    rcases hc with rfl | rfl | rfl | rfl
    · rw [State.hostCall_read, State.busRead, State.busAccess_unmapped _ hres]; rfl
    · rw [State.hostCall_read16, State.busRead16, State.busAccess_unmapped _ hres]; rfl
    · rw [State.hostCall_write, State.busWrite, State.busAccess_unmapped _ hres]; rfl
    · rw [State.hostCall_write16, State.busWrite16, State.busAccess_unmapped _ hres]; rfl

/-- Settles O29: each clause is what the bus access does, with its result as the reply. -/
theorem hostPokesReadAndStore : Obligations.HostPokesReadAndStore := by
  intro s addr i off v h
  refine ⟨fun hc => ?_, fun hc => ?_, fun hc => ?_, fun hc => ?_, fun hrom => ⟨?_, ?_⟩, fun hk =>
    ⟨fun hc => ?_, fun hc => ?_, fun hc => ?_, fun hc => ?_⟩⟩
  · rw [State.hostCall_read, State.busRead_of_peek (State.peek_eq_some h hc)]; rfl
  · rw [State.hostCall_read16, State.busRead16_of_resolve h hc, joinBytes_eq_or]; rfl
  · rw [State.hostCall_read, State.busRead_past h hc]; rfl
  · rw [State.hostCall_read16, State.busRead16_past h hc]; rfl
  · rw [State.hostCall_write, State.busWrite_rom ⟨h, hrom⟩]; rfl
  · rw [State.hostCall_write16, State.busWrite16_rom ⟨h, hrom⟩]; rfl
  · have hi : i < s.devices.length := State.lt_of_capacity (Nat.zero_lt_of_lt hc)
    rw [State.hostCall_write, State.busWrite_ram ⟨h, hk, hc⟩]
    refine ⟨_, rfl, ?_, s.storeByte_sameBytesBut i off _, rfl⟩
    rw [State.setReply_device, State.storeByte_read hi, ofInt_byte]
  · have hi : i < s.devices.length := State.lt_of_capacity (Nat.zero_lt_of_lt hc)
    rw [State.hostCall_write16, State.busWrite16_ram ⟨h, hk, hc⟩]
    refine ⟨_, rfl, ?_, ?_, s.storeWord_sameBytesBut i off _, rfl⟩
    · rw [State.setReply_device, State.storeWord_read_low hi, lowByte_ofInt]
    · rw [State.setReply_device, State.storeWord_read_high hi, highByte_ofInt]
  · rw [State.hostCall_write, State.busWrite_past h hk hc]; rfl
  · rw [State.hostCall_write16, State.busWrite16_past h hk hc]
    refine ⟨_, rfl, fun hlt => ?_, s.failedWordWrite_sameBytesBut i off _, ?_⟩
    · rw [State.setReply_device, State.failedWordWrite_read hlt, lowByte_ofInt]
    · rw [s.failedWordWrite_eq]; rfl

/-- Settles O31. -/
theorem loadPlacesImage : Obligations.LoadPlacesImage := by
  intro s data addr
  refine ⟨fun h => by rw [State.busLoad, h], fun i off h => ⟨fun hfits hopen => ?_, fun hover hopen => ?_,
    fun hfits hacc => ?_, fun hover hacc => ?_⟩⟩
  · have hsame := s.sameBytesBut_loaded i off data
    refine ⟨_, (State.busLoad_ok_iff h).2 ⟨hfits, hopen, rfl⟩, fun addr' o hres hlo hhi => ?_, hsame, (hsame.2 i).1, rfl⟩
    exact State.peek_loaded hres hfits hlo hhi
  · rw [State.busLoad_of_resolve h, Device.load_overflow hover, hopen]; rfl
  · rw [State.busLoad_of_resolve h, Device.load_rejected hfits hacc]; rfl
  · rw [State.busLoad_of_resolve h, Device.load_overflow hover, hacc]
    cases Config.loadOverflowFirst with
    | true => exact .inl rfl
    | false => exact .inr rfl

/-- Settles O32: the read sets the ROM's `accessed` bit, the reset of a mapped ROM clears it. -/
theorem romLoadWindow : Obligations.RomLoadWindow := by
  intro s addr i off b data ⟨hres, hrom⟩ hpeek
  obtain ⟨i', off', hres', hc, _⟩ := State.peek_some_iff.1 hpeek
  obtain ⟨rfl, rfl⟩ : i = i' ∧ off = off' := by simpa using hres.symm.trans hres'
  have hi : i < s.devices.length := State.lt_of_capacity (Nat.zero_lt_of_lt hc)
  constructor
  · have hacc : ((s.touchAt addr).device i).romAccessed = true := by
      rw [State.touchAt_of_resolve hres, State.device_setDevice_self hi, Device.touch_romAccessed hrom]
    refine ⟨s.touchAt addr, State.memRead8_of_peek hpeek, hacc, fun u hload => ?_⟩
    obtain ⟨_, hopen, _⟩ := (State.busLoad_ok_iff ((s.touchAt_resolve addr addr).trans hres)).1 hload
    simp [hacc] at hopen
  · intro hfits
    have hdev : s.doReset.device i = (s.device i).reset := by
      rw [State.doReset_device, if_pos (State.mapped_of_resolve hres)]
    refine ⟨_, (State.busLoad_ok_iff ((s.doReset_resolve addr).trans hres)).2 ⟨?_, ?_, rfl⟩⟩
    · rw [hdev, Device.reset_capacity]; exact hfits
    · rw [hdev, Device.reset_romAccessed]

/-- Settles O30. -/
theorem inspectHasNoEffect : Obligations.InspectHasNoEffect := by
  intro s cs addr n h
  refine ⟨s.inspect addr n, ?_, by simp [State.inspect], fun k hk => ?_, fun a => rfl⟩
  · rw [step, h]; rfl
  · simp [State.inspect, hk]

end Sys2Proof.Machine

/-! # The encoding: instructions, streams and the dispatch table (30_encoding.md) -/

namespace Sys2Proof

/-! ## The dispatch table -/

theorem tableWf_iff (t : List Entry) :
    tableWf t = true ↔ opcodesDistinct t = true ∧ ∀ e ∈ t, e.size = e.mnemonic.format.size := by
  simp [tableWf]

theorem opcodesDistinct_cons (e : Entry) (es : List Entry) :
    opcodesDistinct (e :: es) = true ↔ (∀ e' ∈ es, e'.opcode ≠ e.opcode) ∧ opcodesDistinct es = true := by
  simp [opcodesDistinct]

/-- In a table of distinct opcodes, the search for an entry's opcode finds that entry (30_encoding.md R82). -/
theorem find?_opcode_of_mem {t : List Entry} {e : Entry} (ht : opcodesDistinct t = true) (he : e ∈ t) :
    t.find? (fun e' => e'.opcode == e.opcode) = some e := by
  induction t with
  | nil => cases he
  | cons e₀ es ih =>
    obtain ⟨hne, hes⟩ := (opcodesDistinct_cons e₀ es).1 ht
    rcases List.mem_cons.1 he with rfl | he
    · simp
    · rw [List.find?_cons_of_neg (by simpa using (hne e he).symm), ih hes he]

theorem Format.one_le_size (f : Format) : 1 ≤ f.size := by
  cases f <;> decide

theorem dispatchTable_wf (p : Params) : tableWf (dispatchTable p) = true := by
  simp [tableWf_iff, dispatchTable, opcodesDistinct, Mnemonic.format, Format.size]

theorem decodeOpcode_of_mem {p : Params} {e : Entry} (he : e ∈ dispatchTable p) : decodeOpcode p e.opcode = some e :=
  find?_opcode_of_mem ((tableWf_iff _).1 (dispatchTable_wf p)).1 he

theorem decodeOpcode_eq_none_iff (p : Params) (op : Byte) : decodeOpcode p op = none ↔ op ≠ p.opcLdaImm := by
  rcases Machine.decodeOpcode_cases p op with ⟨hop, hd⟩ | ⟨hop, hd⟩ <;> rw [hd] <;> simp [hop]

/-! ## One instruction -/

@[simp] theorem Instr.wf_eq_true (i : Instr) : i.wf = true := by
  cases i; rfl

theorem encode_ldaImm (p : Params) (imm : Byte) : encode p (.ldaImm imm) = [p.opcLdaImm, imm] := rfl

/-- Every instruction's bytes have the shape its dispatch-table entry gives (30_encoding.md R83, R84). -/
theorem encodeShape (i : Instr) : Laws.EncodeShape.Statement i := by
  cases i with
  | ldaImm imm => exact Laws.EncodeShape.ldaImm imm

theorem decode_nil (p : Params) : decode p [] = .truncated := rfl

/-- The decoder answers an instruction exactly on the bytes that start with its encoding (30_encoding.md R80). -/
theorem decode_eq_instr_iff {p : Params} {bs : List Byte} {i : Instr} {rest : List Byte} :
    decode p bs = .instr i rest ↔ bs = encode p i ++ rest := by
  obtain ⟨imm⟩ := i
  rw [encode_ldaImm]
  cases bs with
  | nil => simp [decode_nil]
  | cons op bs =>
    rw [decode_cons]
    by_cases hop : op = p.opcLdaImm
    · cases bs <;> simp [hop]
    · simp [hop]

/-- The decoder answers `Unknown` of the byte it is given, whatever follows, unless that byte is LDA_IMM's opcode
(30_encoding.md R81, R88). -/
theorem decode_eq_unknown_iff {p : Params} {op op' : Byte} {rest : List Byte} :
    decode p (op :: rest) = .unknown op' ↔ op' = op ∧ op ≠ p.opcLdaImm := by
  rw [decode_cons]
  by_cases hop : op = p.opcLdaImm
  · cases rest <;> simp [hop]
  · simp [hop, eq_comm]

end Sys2Proof

namespace Sys2Proof.Machine

/-! ## Instruction streams -/

@[simp] theorem encodeImage_nil (p : Params) : encodeImage p [] = [] := rfl

@[simp] theorem encodeImage_cons (p : Params) (i : Instr) (is : List Instr) :
    encodeImage p (i :: is) = encode p i ++ encodeImage p is := List.flatMap_cons

/-- The empty list of instructions is decoded from the empty stream alone. -/
theorem decodeImage_eq_some_nil_iff {p : Params} {n : Nat} {bs : List Byte} :
    decodeImage p n bs = some [] ↔ bs = [] := by
  cases bs with
  | nil => simp [decodeImage]
  | cons b bs =>
    cases n with
    | zero => simp [decodeImage]
    | succ n =>
      simp only [decodeImage]
      cases decode p (b :: bs) <;> simp

/-- A stream decodes to an instruction and more exactly when its first instruction is that one and the bytes after it
decode to the others. -/
theorem decodeImage_eq_some_cons_iff {p : Params} {n : Nat} {bs : List Byte} {i : Instr} {is : List Instr} :
    decodeImage p (n + 1) bs = some (i :: is) ↔
      ∃ rest, decode p bs = .instr i rest ∧ decodeImage p n rest = some is := by
  cases bs with
  | nil => simp [decodeImage, decode_nil]
  | cons b bs =>
    simp only [decodeImage]
    cases decode p (b :: bs) with
    | instr j rest => simp [and_left_comm]
    | unknown op => simp
    | truncated => simp

/-! ## What no step changes -/

/-- `reset()` zeroes the general-purpose registers and keeps their names and widths (10_state.md R21, R26). -/
theorem State.doReset_gprDecls (s : State) : s.doReset.gprDecls = s.gprDecls := by
  have h : s.doReset.gprs = zeroGprs s.gprs := rfl
  simp [State.gprDecls, h, zeroGprs]

/-- No interface operation changes the parameters, or the class and capacity of a device; a map and an unmap leave the
devices themselves. -/
theorem CallEffect.params_deviceShapes {c : HostCall} {s t : State} (h : CallEffect c s t) :
    t.params = s.params ∧ deviceShapes t.devices = deviceShapes s.devices := by
  rcases h.layout_cases with hl | ⟨_, _, _, _, _, _, _, hmap⟩ | ⟨token, _, rfl⟩
  · exact ⟨hl.params, hl.devices.shapes⟩
  · obtain ⟨_, _, _, rfl⟩ := State.busMap_ok_iff.1 hmap
    exact ⟨rfl, rfl⟩
  · exact ⟨rfl, rfl⟩

/-- A step keeps the names and widths of the general-purpose registers: only `reset()` writes them at all
(10_state.md R10, R21). -/
theorem step_gprDecls {s t : State} (h : step s = .next t) : t.gprDecls = s.gprDecls := by
  by_cases hreset : s.hostCalls.head? = some .reset
  · obtain ⟨cs, hq⟩ := List.head?_eq_some_iff.1 hreset
    have ht : (s.setHostCalls cs).doReset.setReply (some .done) = t := by
      simp only [step, hq] at h
      exact Host.Outcome.next.inj h
    rw [← ht]
    exact (s.setHostCalls cs).doReset_gprDecls
  · obtain ⟨_, hgprs, _⟩ := registerWriters s t h hreset
    simp only [State.gprDecls, hgprs]

end Sys2Proof.Machine

/-! # The obligations of 30_encoding.md -/

namespace Sys2Proof.Machine

/-- Settles O3, by induction on the list of instructions. -/
theorem instructionStreamsRoundTrip : Obligations.InstructionStreamsRoundTrip := by
  intro p is
  induction is with
  | nil => exact fun bs => decodeImage_eq_some_nil_iff
  | cons i is ih =>
    intro bs
    rw [List.length_cons, decodeImage_eq_some_cons_iff, encodeImage_cons]
    simp only [decode_eq_instr_iff, ih, exists_eq_right]

/-- Settles O2. -/
theorem decodeIffEncoded : Obligations.DecodeIffEncoded := by
  intro p bs i rest
  rw [decode_eq_instr_iff, i.wf_eq_true, eq_self_iff_true, true_and]

/-- Settles O58. -/
theorem shapesNeverChange : Obligations.ShapesNeverChange := by
  intro s t h
  have hdecls := step_gprDecls h
  obtain ⟨r, t0, he, rfl⟩ := step_effect h
  obtain ⟨hparams, hshapes⟩ := he.params_deviceShapes
  exact ⟨hparams, hdecls, hshapes⟩

/-- Settles O1: the first three are encodings, the others start with a byte that is not the opcode. -/
theorem sampleWordsDecode : Obligations.SampleWordsDecode := by
  refine ⟨?_, ?_, ?_, ?_, ?_, ?_, ?_⟩
  · exact decode_eq_instr_iff.2 rfl
  · exact decode_eq_instr_iff.2 rfl
  · exact decode_eq_instr_iff.2 rfl
  · exact decode_eq_unknown_iff.2 ⟨rfl, by decide⟩
  · exact decode_eq_unknown_iff.2 ⟨rfl, by decide⟩
  · exact decode_eq_unknown_iff.2 ⟨rfl, by decide⟩
  · exact decode_eq_unknown_iff.2 ⟨rfl, by decide⟩

/-- Settles O4. -/
theorem otherOpcodesAreUnknown : Obligations.OtherOpcodesAreUnknown := by
  intro p op rest
  refine ⟨?_, fun op' h => (decode_eq_unknown_iff.1 h).1, decodeOpcode_eq_none_iff p op⟩
  rw [decode_eq_unknown_iff, eq_self_iff_true, true_and]

/-- Settles O5: each encoding has the shape of an entry of the table, and the opcodes are distinct, so that entry is the
one its opcode byte decodes to. -/
theorem dispatchTableFitsEncoding : Obligations.DispatchTableFitsEncoding := by
  intro p
  obtain ⟨_, hsizes⟩ := (tableWf_iff _).1 (dispatchTable_wf p)
  refine ⟨dispatchTable_wf p, fun i => ?_⟩
  obtain ⟨hlen, e, he, hmnem, hhead⟩ := encodeShape i p
  obtain ⟨operands, henc⟩ := List.head?_eq_some_iff.1 hhead
  refine ⟨e, e.opcode, operands, henc, decodeOpcode_of_mem he, hmnem, ?_, ?_⟩
  · exact hsizes e he ▸ e.mnemonic.format.one_le_size
  · rw [hlen, hsizes e he, hmnem]

end Sys2Proof.Machine

/-! # The cycle: fetches that fail, and what a step of a running core does (40_cycle.md) -/

namespace Sys2Proof.Machine

/-! ## What a read marks does not depend on PC and IR -/

theorem State.touchAt_setPc (s : State) (v : Word) (addr : Nat) :
    (s.setPc v).touchAt addr = (s.touchAt addr).setPc v := by
  simp only [State.touchAt, State.setPc_resolve]
  cases s.resolve addr <;> rfl

theorem State.touchAt_setIr (s : State) (v : Byte) (addr : Nat) :
    (s.setIr v).touchAt addr = (s.touchAt addr).setIr v := by
  simp only [State.touchAt, State.setIr_resolve]
  cases s.resolve addr <;> rfl

/-! ## Fetches from the address PC resolves to -/

section
variable {s : State} {i off : Nat}

theorem State.fetch8_unmapped (h : s.resolve s.pc.toNat = none) :
    s.fetch8 = .raised (s.setFault (some (.unmappedAddress s.pc.toNat))) := by
  rw [State.fetch8, State.memRead8_unmapped h, Res.bind_raised]

/-- Under `halt`, a fetch past the device's capacity raises and leaves PC (60_exceptions.md R142). -/
theorem State.fetch8_past_halt (h : s.resolve s.pc.toNat = some (i, off)) (hc : (s.device i).capacity ≤ off)
    (hp : s.params.policy = .halt) :
    s.fetch8 = .raised (s.setFault (some (.deviceFault
      { addr := s.pc.toNat, info := { offset := off, width := .byte, dir := .read } }))) := by
  rw [State.fetch8, State.memRead8_past h hc, BusResult.settle_halt _ _ hp, Res.bind_raised]

/-- Under `sentinel`, a fetch past the device's capacity is logged, gives 0x00 and advances PC (60_exceptions.md
R142). -/
theorem State.fetch8_past_sentinel (h : s.resolve s.pc.toNat = some (i, off)) (hc : (s.device i).capacity ≤ off)
    (hp : s.params.policy = .sentinel) :
    s.fetch8 = .ok 0#8 ((s.setDevlog (s.devlog ++
      [{ addr := s.pc.toNat, info := { offset := off, width := .byte, dir := .read } }])).advancePc 1) := by
  rw [State.fetch8, State.memRead8_past h hc, BusResult.settle_sentinel _ _ hp, Res.bind_ok]

theorem State.fetch16_unmapped (h : s.resolve s.pc.toNat = none) :
    s.fetch16 = .raised (s.setFault (some (.unmappedAddress s.pc.toNat))) := by
  rw [State.fetch16, State.memRead16_unmapped h, Res.bind_raised]

theorem State.fetch16_of_resolve (h : s.resolve s.pc.toNat = some (i, off)) (hc : off + 1 < (s.device i).capacity) :
    s.fetch16 = .ok (joinBytes ((s.device i).mem.read off) ((s.device i).mem.read (off + 1)))
      ((s.touchAt s.pc.toNat).setPc (s.pc + 2#16)) := by
  rw [State.fetch16, State.memRead16_of_resolve h hc, Res.bind_ok, State.advancePc, State.touchAt_pc]

/-- `fetch_instruction` of a byte that was fetched: the byte is in IR (40_cycle.md R104). -/
theorem State.fetchInstruction_of_fetch8 {op : Byte} {t : State} (h : s.fetch8 = .ok op t) :
    s.fetchInstruction = .ok op (t.setIr op) := by
  rw [State.fetchInstruction, h, Res.bind_ok]

theorem State.fetchInstruction_of_fetch8_raised {t : State} (h : s.fetch8 = .raised t) :
    s.fetchInstruction = .raised t := by
  rw [State.fetchInstruction, h, Res.bind_raised]

end

/-! ## The step of a running core -/

section
variable {s t : State} {op : Byte}

/-- A step of a running core is the fetch of the opcode, then its table entry (40_cycle.md R101). -/
theorem step_of_running (hs : s.Running) :
    step s = s.fetchInstruction.andThen fun op t => runEntry s.pc op t := by
  obtain ⟨hcalls, hfault⟩ := hs
  simp [step, hcalls, cycle, State.halted, hfault]

theorem step_of_fetchInstruction (hs : s.Running) (h : s.fetchInstruction = .ok op t) :
    step s = runEntry s.pc op t := by
  rw [step_of_running hs, h]
  rfl

theorem step_of_fetchInstruction_raised (hs : s.Running) (h : s.fetchInstruction = .raised t) : step s = .next t := by
  rw [step_of_running hs, h]
  rfl

/-- An opcode with no entry raises UnknownInstruction, with the address it was fetched from (40_cycle.md R106). -/
theorem runEntry_unknown (pc0 : Word) (h : op ≠ t.params.opcLdaImm) :
    runEntry pc0 op t = .next (t.setFault (some (.unknownInstruction op pc0))) := by
  rw [runEntry, (decodeOpcode_eq_none_iff _ _).2 h]
  rfl

/-- The opcode of LDA immediate runs it on the byte at PC, with PC behind that byte (40_cycle.md R105). -/
theorem runEntry_ldaImm (pc0 : Word) {b : Byte} (hop : op = t.params.opcLdaImm) (h : t.peek t.pc.toNat = some b) :
    runEntry pc0 op t = exec (.ldaImm b) ((t.touchAt t.pc.toNat).setPc (t.pc + 1#16)) := by
  have hdecode : decodeOpcode t.params t.params.opcLdaImm = some _ := decodeOpcode_of_mem List.mem_cons_self
  rw [hop, runEntry, hdecode]
  simp only [Mnemonic.format, State.fetchOperand, State.fetch8_of_peek h]
  rfl

end

end Sys2Proof.Machine

/-! # The obligations of 40_cycle.md -/

namespace Sys2Proof.Machine

/-- Settles O12: the opcode is fetched into IR with PC behind it, and its missing entry raises. -/
theorem unknownOpcodeRaises : Obligations.UnknownOpcodeRaises := by
  intro s op hs hpeek hop
  rw [step_of_fetchInstruction hs (State.fetchInstruction_of_peek hpeek), runEntry_unknown s.pc (by simpa using hop)]
  rfl

/-- Settles O13: a fault on the fetch ends the step, and the sentinel's byte 0x00 is an opcode with no entry. -/
theorem opcodeFetchFaults : Obligations.OpcodeFetchFaults := by
  intro s hs
  refine ⟨fun hnone => ?unmapped, fun i off hres hcap => ⟨fun hhalt => ?halt, fun hsent hop => ?sentinel⟩⟩
  case unmapped =>
    exact step_of_fetchInstruction_raised hs
      (State.fetchInstruction_of_fetch8_raised (State.fetch8_unmapped hnone))
  case halt =>
    exact step_of_fetchInstruction_raised hs
      (State.fetchInstruction_of_fetch8_raised (State.fetch8_past_halt hres hcap hhalt))
  case sentinel =>
    have hfetch := State.fetchInstruction_of_fetch8 (State.fetch8_past_sentinel hres hcap hsent)
    rw [step_of_fetchInstruction hs hfetch]
    exact runEntry_unknown s.pc hop.symm

/-- Settles O15: `Fetch16` by whether PC resolves, `Peek8` by the memory read it is. -/
theorem wordFetchAndPeek : Obligations.WordFetchAndPeek := by
  intro s
  refine ⟨fun i off hres hcap => ?word, fun b hpeek => State.memRead8_of_peek hpeek, fun hnone => ?unmapped⟩
  case word =>
    rw [State.fetch16_of_resolve hres hcap, joinBytes_eq_or]
    exact ⟨_, rfl, rfl, fun addr => s.touchAt_peek _ addr⟩
  case unmapped => exact ⟨State.fetch16_unmapped hnone, State.memRead8_unmapped hnone⟩

/-- Settles O11: two bytes that decode are an encoding, so the first is LDA_IMM's opcode and the second the operand that
`runEntry` fetches. -/
theorem stepRunsDecodedInstruction : Obligations.StepRunsDecodedInstruction := by
  intro s op b i hs hop hb hdecode _
  obtain ⟨imm⟩ := i
  obtain ⟨rfl, rfl⟩ : op = s.params.opcLdaImm ∧ b = imm := by
    simpa [encode_ldaImm] using decode_eq_instr_iff.1 hdecode
  rw [step_of_fetchInstruction hs (State.fetchInstruction_of_peek hop),
    runEntry_ldaImm s.pc (by simp) (b := b) (by simpa using hb)]
  simp only [State.touchAt_setIr, State.touchAt_setPc, State.setIr_pc, State.setPc_pc, BitVec.add_assoc]
  rfl

end Sys2Proof.Machine

/-! # LDA immediate: its flags and its operand fetch (41_load.md) -/

namespace Sys2Proof.Machine

@[simp] theorem Res.andThen_ok {α : Type} (a : α) (s : State) (f : α → State → Host.Outcome State Fault Refusal) :
    (Res.ok a s).andThen f = f a s := rfl

@[simp] theorem Res.andThen_raised {α : Type} (s : State) (f : α → State → Host.Outcome State Fault Refusal) :
    (Res.raised s : Res α).andThen f = .next s := rfl

/-- A loaded 0x00 sets Z alone (41_load.md R121). -/
theorem loadFlags_zero (p : Params) (fr : Byte) : loadFlags p 0#8 fr = fr ||| bitMask p.flagZ := by
  simp [loadFlags, zeroBit, negativeBit]

/-- The state in which the operand of LDA immediate is fetched: the opcode is in IR, PC one past it (40_cycle.md R104,
41_load.md R120). -/
def State.atOperand (s : State) : State :=
  ((s.touchAt s.pc.toNat).setPc (s.pc + 1#16)).setIr s.params.opcLdaImm

section
variable {s : State}

@[simp] theorem State.atOperand_pc : s.atOperand.pc = s.pc + 1#16 := rfl

@[simp] theorem State.atOperand_params : s.atOperand.params = s.params := s.touchAt_params s.pc.toNat

@[simp] theorem State.atOperand_fr : s.atOperand.fr = s.fr := s.touchAt_fr s.pc.toNat

@[simp] theorem State.atOperand_devlog : s.atOperand.devlog = s.devlog := s.touchAt_devlog s.pc.toNat

@[simp] theorem State.atOperand_resolve (addr : Nat) : s.atOperand.resolve addr = s.resolve addr :=
  s.touchAt_resolve s.pc.toNat addr

@[simp] theorem State.atOperand_capacity (i : Nat) : (s.atOperand.device i).capacity = (s.device i).capacity :=
  s.touchAt_capacity s.pc.toNat i

/-- The opcode of LDA immediate has its operand fetched, then LDA immediate run on it (40_cycle.md R105). -/
theorem runEntry_opcLdaImm (pc0 : Word) (t : State) :
    runEntry pc0 t.params.opcLdaImm t = t.fetch8.andThen fun b u => exec (.ldaImm b) u := by
  have hdecode : decodeOpcode t.params t.params.opcLdaImm = some _ := decodeOpcode_of_mem List.mem_cons_self
  rw [runEntry, hdecode]
  rfl

/-- A running core with the opcode of LDA immediate at PC: the step is the operand fetch, then LDA immediate. -/
theorem step_of_opcLdaImm (hs : s.Running) (hop : s.peek s.pc.toNat = some s.params.opcLdaImm) :
    step s = s.atOperand.fetch8.andThen fun b u => exec (.ldaImm b) u := by
  have hfetch : s.fetchInstruction = .ok s.params.opcLdaImm s.atOperand := State.fetchInstruction_of_peek hop
  have hrun := runEntry_opcLdaImm s.pc s.atOperand
  rw [State.atOperand_params] at hrun
  rw [step_of_fetchInstruction hs hfetch, hrun]

end

end Sys2Proof.Machine

/-! # The obligations of 41_load.md -/

namespace Sys2Proof.Machine

/-- Settles O9: `exec` writes A and FR alone, and memory is read through neither. -/
theorem ldaImmLoadsAndOrsFlags : Obligations.LdaImmLoadsAndOrsFlags := by
  intro imm s
  exact ⟨_, exec_ldaImm imm s, rfl, getLsbD_loadFlags s.params imm s.fr, rfl, fun _ => rfl⟩

/-- Settles O10: the step is LDA immediate's meaning on the state the two fetches leave (O11), whose flags are `s`'s and
whose bytes a read does not change. -/
theorem ldaImmCycle : Obligations.LdaImmCycle := by
  intro s v hs hop hv
  have hdecode : decode s.params [s.params.opcLdaImm, v] = .instr (.ldaImm v) [] := decode_eq_instr_iff.2 rfl
  have hstep := stepRunsDecodedInstruction s _ v _ hs hop hv hdecode rfl
  rw [exec_ldaImm] at hstep
  refine ⟨_, hstep, rfl, rfl, rfl, fun k => ?flags, fun addr => ?bytes, rfl⟩
  case flags => simpa using getLsbD_loadFlags s.params v s.fr k
  case bytes => simp

/-- Settles O14: the step from `atOperand` by what its fetch does; under `sentinel` LDA immediate runs on 0x00. -/
theorem operandFetchFaults : Obligations.OperandFetchFaults := by
  intro s hs hop
  refine ⟨fun hnone => ?unmapped, fun i off hres hcap => ?past⟩
  case unmapped =>
    rw [step_of_opcLdaImm hs hop, State.fetch8_unmapped (by simpa using hnone), Res.andThen_raised]
    rfl
  case past =>
    have hres' : s.atOperand.resolve s.atOperand.pc.toNat = some (i, off) := by simpa using hres
    have hcap' : (s.atOperand.device i).capacity ≤ off := by simpa using hcap
    refine ⟨fun hhalt => ?halt, fun hsent => ?sentinel⟩
    case halt =>
      rw [step_of_opcLdaImm hs hop, State.fetch8_past_halt hres' hcap' (by simpa using hhalt),
        Res.andThen_raised]
      rfl
    case sentinel =>
      rw [step_of_opcLdaImm hs hop, State.fetch8_past_sentinel hres' hcap' (by simpa using hsent)]
      rw [Res.andThen_ok, exec_ldaImm, loadFlags_zero]
      simp only [State.advancePc, State.setPc_params, State.setPc_fr, State.setDevlog_params, State.setDevlog_fr,
        State.setDevlog_pc, State.atOperand_params, State.atOperand_fr, State.atOperand_devlog, State.atOperand_pc,
        BitVec.add_assoc]
      rfl

end Sys2Proof.Machine

/-! # The stack (42_stack.md) -/

namespace Sys2Proof.Machine

/-! ## What a read marks does not depend on SP -/

theorem State.touchAt_setSp (s : State) (v : Word) (addr : Nat) :
    (s.setSp v).touchAt addr = (s.touchAt addr).setSp v := by
  simp only [State.touchAt, State.setSp_resolve]
  cases s.resolve addr <;> rfl

/-- What lets a word be stored in RAM does not depend on the bytes there. -/
theorem SameBytesBut.ramWord {s t : State} {p : Nat → Nat → Prop} (h : SameBytesBut s t p)
    (hr : t.regions = s.regions) {addr i off : Nat} (hw : s.RamWord addr i off) : t.RamWord addr i off := by
  obtain ⟨hres, hkind, hc⟩ := hw
  obtain ⟨hkeepKind, hkeepCap, _⟩ := h.2 i
  exact ⟨by simpa [State.resolve, hr] using hres, hkeepKind.trans hkind, hkeepCap ▸ hc⟩

/-! ## One push, one pop -/

/-- What a push onto RAM leaves: the word in its slot, SP below it (42_stack.md R130). -/
def State.pushed (s : State) (i off : Nat) (v : Word) : State := (s.storeWord i off v).setSp (s.sp - 2#16)

@[simp] theorem State.pushed_sp (s : State) (i off : Nat) (v : Word) : (s.pushed i off v).sp = s.sp - 2#16 := rfl

theorem State.pushed_eq (s : State) (i off : Nat) (v : Word) :
    s.pushed i off v = { s with sp := s.sp - 2#16, devices := (s.pushed i off v).devices } := rfl

theorem State.pushed_sameBytesBut (s : State) (i off : Nat) (v : Word) :
    SameBytesBut s (s.pushed i off v) (fun j o => j = i ∧ (o = off ∨ o = off + 1)) :=
  s.storeWord_sameBytesBut i off v

section
variable {s : State} {i off : Nat}

theorem State.pushed_read_low (hi : i < s.devices.length) (v : Word) :
    ((s.pushed i off v).device i).mem.read off = lowByte v := State.storeWord_read_low hi v

theorem State.pushed_read_high (hi : i < s.devices.length) (v : Word) :
    ((s.pushed i off v).device i).mem.read (off + 1) = highByte v := State.storeWord_read_high hi v

theorem State.push_ram (h : s.RamWord s.sp.toNat i off) (v : Word) : s.push v = .ok () (s.pushed i off v) := by
  rw [State.push, State.memWrite16_ram h]
  rfl

theorem State.push_rom (h : s.RomAt s.sp.toNat i off) (v : Word) :
    s.push v = .ok () ((s.touchAt s.sp.toNat).setSp (s.sp - 2#16)) := by
  rw [State.push, State.memWrite16_rom h, Res.bind_ok, State.touchAt_sp]

theorem State.pop_of_resolve (h : s.resolve (s.sp + 2#16).toNat = some (i, off))
    (hc : off + 1 < (s.device i).capacity) :
    s.pop = .ok (joinBytes ((s.device i).mem.read off) ((s.device i).mem.read (off + 1)))
      ((s.touchAt (s.sp + 2#16).toNat).setSp (s.sp + 2#16)) := by
  rw [State.pop, State.memRead16_of_resolve (s := s.setSp (s.sp + 2#16)) h hc, State.touchAt_setSp]
  rfl

/-- The slot of a push onto RAM reads as the pushed word, in any later state with the bytes of the slot untouched. -/
theorem State.memRead16_pushed {u : State} {p : Nat → Nat → Prop} {v : Word} (h : s.RamWord s.sp.toNat i off)
    (hr : u.regions = s.regions) (hsame : SameBytesBut (s.pushed i off v) u p)
    (hslot : ∀ o, o = off ∨ o = off + 1 → ¬ p i o) : u.memRead16 s.sp.toNat = .ok v u := by
  have hi : i < s.devices.length := State.lt_of_capacity (Nat.zero_lt_of_lt h.2.2)
  obtain ⟨hres, hkind, hc⟩ := hsame.ramWord hr ((s.pushed_sameBytesBut i off v).ramWord rfl h)
  obtain ⟨_, _, hread⟩ := hsame.2 i
  rw [State.memRead16_of_resolve hres hc, hread off (hslot off (.inl rfl)),
    hread (off + 1) (hslot (off + 1) (.inr rfl)), State.pushed_read_low hi, State.pushed_read_high hi,
    joinBytes_lowByte_highByte, State.touchAt_of_ram hres hkind]

/-- A pop gives back what a push onto RAM stored, in any later state that has SP where the push left it and the bytes
of the slot untouched (42_stack.md R133). -/
theorem State.pop_pushed {u : State} {p : Nat → Nat → Prop} {v : Word} (h : s.RamWord s.sp.toNat i off)
    (hr : u.regions = s.regions) (hsp : u.sp = s.sp - 2#16) (hsame : SameBytesBut (s.pushed i off v) u p)
    (hslot : ∀ o, o = off ∨ o = off + 1 → ¬ p i o) : u.pop = .ok v (u.setSp s.sp) := by
  rw [State.pop, hsp, BitVec.sub_add_cancel]
  exact State.memRead16_pushed (u := u.setSp s.sp) h hr hsame hslot

end

/-! ## Stack operations that raise -/

/-- Only a bus access that fails is raised, and raising adds the fault record alone (60_exceptions.md R145, R146). -/
theorem BusResult.settle_eq_raised {α : Type} {dflt : α} {r : BusResult α} {t : State}
    (h : r.settle dflt = .raised t) : ∃ e u f, r = .fail e u ∧ t = u.setFault (some f) := by
  unfold BusResult.settle at h
  split at h
  · cases h
  · cases h; exact ⟨_, _, _, rfl, rfl⟩
  · split at h
    · cases h; exact ⟨_, _, _, rfl, rfl⟩
    · cases h

/-- A failing word read leaves the state as it was (20_memory.md R44). -/
theorem State.busRead16_eq_fail {s u : State} {addr : Nat} {e : BusFail} (h : s.busRead16 addr = .fail e u) :
    u = s := by
  cases hres : s.resolve addr with
  | none =>
    rw [State.busRead16, State.busAccess_unmapped _ hres] at h
    cases h; rfl
  | some slot =>
    obtain ⟨i, off⟩ := slot
    by_cases hc : off + 1 < (s.device i).capacity
    · rw [State.busRead16_of_resolve hres hc] at h
      cases h
    · rw [State.busRead16_past hres (Nat.not_lt.1 hc)] at h
      cases h; rfl

/-- A failing word write found no region, or a RAM the word does not fit in (20_memory.md R44). -/
theorem State.busWrite16_eq_fail {s u : State} {addr : Nat} {w : Word} {e : BusFail}
    (h : s.busWrite16 addr w = .fail e u) :
    u = s ∨ ∃ i off, s.resolve addr = some (i, off) ∧ u = s.failedWordWrite i off w := by
  cases hres : s.resolve addr with
  | none =>
    rw [State.busWrite16, State.busAccess_unmapped _ hres] at h
    cases h; exact .inl rfl
  | some slot =>
    obtain ⟨i, off⟩ := slot
    cases hrom : (s.device i).isRom with
    | true =>
      rw [State.busWrite16_rom ⟨hres, hrom⟩] at h
      cases h
    | false =>
      have hkind := (s.device i).kind_ram_iff.2 hrom
      by_cases hc : off + 1 < (s.device i).capacity
      · rw [State.busWrite16_ram ⟨hres, hkind, hc⟩] at h
        cases h
      · rw [State.busWrite16_past hres hkind (Nat.not_lt.1 hc)] at h
        cases h; exact .inr ⟨i, off, rfl, rfl⟩

/-- A push that raises did so in its write, before it moved SP (42_stack.md R130). -/
theorem State.push_eq_raised {s t : State} {v : Word} (h : s.push v = .raised t) :
    ∃ u f, t = u.setFault (some f) ∧
      (u = s ∨ ∃ i off, s.resolve s.sp.toNat = some (i, off) ∧ u = s.failedWordWrite i off v) := by
  have hwrite : s.memWrite16 s.sp.toNat v = .raised t := by
    rcases Res.bind_eq_raised.1 h with hw | ⟨_, _, _, hset⟩
    · exact hw
    · cases hset
  obtain ⟨e, u, f, hfail, rfl⟩ := BusResult.settle_eq_raised hwrite
  exact ⟨u, f, rfl, State.busWrite16_eq_fail hfail⟩

/-- A pop that raises did so in its read, after it moved SP (42_stack.md R131). -/
theorem State.pop_eq_raised {s t : State} (h : s.pop = .raised t) :
    ∃ f, t = (s.setSp (s.sp + 2#16)).setFault (some f) := by
  obtain ⟨e, u, f, hfail, rfl⟩ := BusResult.settle_eq_raised h
  exact ⟨f, by rw [State.busRead16_eq_fail hfail]⟩

/-! ## Many pushes, many pops -/

theorem Res.bind_assoc {α β γ : Type} (r : Res α) (f : α → State → Res β) (g : β → State → Res γ) :
    (r.bind f).bind g = r.bind fun a s => (f a s).bind g := by
  cases r <;> rfl

theorem pushAll_cons (s : State) (v : Word) (vs : List Word) :
    pushAll s (v :: vs) = (s.push v).bind fun _ t => pushAll t vs := rfl

theorem popAll_succ (s : State) (k : Nat) :
    popAll s (k + 1) = s.pop.bind fun v t => (popAll t k).bind fun vs u => .ok (v :: vs) u := rfl

/-- The last of many pops, split off: it takes the value that was pushed first. -/
theorem popAll_succ_last (s : State) (k : Nat) :
    popAll s (k + 1) = (popAll s k).bind fun vs t => t.pop.bind fun v u => .ok (vs ++ [v]) u := by
  induction k generalizing s with
  | zero => rfl
  | succ k ih =>
    rw [popAll_succ, popAll_succ s k, Res.bind_assoc]
    congr 1
    funext v t
    rw [ih, Res.bind_assoc, Res.bind_assoc]
    congr 1
    funext vs u
    rw [Res.bind_assoc]
    rfl

/-- SP after one push and n more. -/
theorem sub_two_sub_ofNat (x : Word) (n : Nat) :
    x - 2#16 - BitVec.ofNat 16 (2 * n) = x - BitVec.ofNat 16 (2 * (n + 1)) := by
  rw [BitVec.sub_sub, Nat.mul_succ, Nat.add_comm, BitVec.ofNat_add]

end Sys2Proof.Machine

/-! # The obligations of 42_stack.md -/

namespace Sys2Proof.Machine

/-- Settles O33. -/
theorem pushStoresWordAtSp : Obligations.PushStoresWordAtSp := by
  intro s v i off
  refine ⟨fun h => ?_, fun h => ⟨_, State.push_rom h v, rfl, s.touchAt_peek s.sp.toNat, rfl⟩⟩
  have hi : i < s.devices.length := State.lt_of_capacity (Nat.zero_lt_of_lt h.2.2)
  have hsame := s.pushed_sameBytesBut i off v
  obtain ⟨hres, _, hc⟩ := hsame.ramWord rfl h
  have hread : (s.pushed i off v).memRead16 s.sp.toNat = .ok v (s.pushed i off v) :=
    State.memRead16_pushed h rfl (.refl _ fun _ _ => False) fun _ _ => not_false
  have hpeek : (s.pushed i off v).peek s.sp.toNat = some (BitVec.ofNat 8 (v.toNat % 256)) := by
    rw [State.peek_eq_some hres (Nat.lt_of_succ_lt hc), State.pushed_read_low hi, lowByte_eq_ofNat]
  exact ⟨s.pushed i off v, State.push_ram h v, rfl, hread, hpeek, hsame, s.pushed_eq i off v⟩

/-- Settles O34. -/
theorem popReadsWordAboveSp : Obligations.PopReadsWordAboveSp := by
  intro s i off hres hc
  have hpop := State.pop_of_resolve hres hc
  rw [joinBytes_eq_or] at hpop
  exact ⟨_, hpop, rfl, s.touchAt_peek (s.sp + 2#16).toNat, rfl⟩

/-- Settles O35. -/
theorem stackFaultsKeepTheirOrder : Obligations.StackFaultsKeepTheirOrder := by
  intro s t v
  refine ⟨fun h => ?_, fun h => ?_⟩
  · obtain ⟨u, f, rfl, rfl | ⟨i, off, hres, rfl⟩⟩ := State.push_eq_raised h
    · exact ⟨rfl, nofun, .refl u _⟩
    · have hsame := s.failedWordWrite_sameBytesBut i off v
      refine ⟨?_, nofun, hsame.mono fun j o ⟨hj, ho, _⟩ => by rw [hres, hj, ho]⟩
      rw [s.failedWordWrite_eq i off v]
      rfl
  · obtain ⟨f, rfl⟩ := State.pop_eq_raised h
    exact ⟨rfl, nofun⟩

/-- Settles O36, by induction on the list: the first value is pushed below the rest and popped above it, and the rest
leaves its slot alone. -/
theorem stackIsLastInFirstOut : Obligations.StackIsLastInFirstOut := by
  intro s vs
  induction vs generalizing s with
  | nil =>
    intro _ _ _ _
    exact ⟨s, s, rfl, by simp, rfl, rfl, .refl s _, rfl⟩
  | cons v vs ih =>
    intro dev off hram hdisjoint
    have hslot : s.RamWord s.sp.toNat (dev 0) (off 0) := by simpa using hram 0 (Nat.zero_lt_succ _)
    have hfirst := s.pushed_sameBytesBut (dev 0) (off 0) v
    have hramRest : ∀ k, k < vs.length → (s.pushed (dev 0) (off 0) v).RamWord
        ((s.pushed (dev 0) (off 0) v).sp - BitVec.ofNat 16 (2 * k)).toNat (dev (k + 1)) (off (k + 1)) := by
      intro k hk
      rw [State.pushed_sp, sub_two_sub_ofNat]
      exact hfirst.ramWord rfl (hram (k + 1) (Nat.succ_lt_succ hk))
    obtain ⟨t, u, hpush, htsp, hpop, husp, hrest, hu⟩ := ih (s.pushed (dev 0) (off 0) v) (fun k => dev (k + 1))
      (fun k => off (k + 1)) hramRest
      fun j k hjk hk => hdisjoint (j + 1) (k + 1) (Nat.succ_lt_succ hjk) (Nat.succ_lt_succ hk)
    have hregions : u.regions = s.regions := by rw [hu]; rfl
    have hpopLast : u.pop = .ok v (u.setSp s.sp) := by
      refine State.pop_pushed hslot hregions husp hrest ?_
      rintro o ho ⟨k, hk, hdev, ho'⟩
      have := hdisjoint 0 (k + 1) (Nat.zero_lt_succ k) (Nat.succ_lt_succ hk) hdev
      omega
    refine ⟨t, u.setSp s.sp, ?_, ?_, ?_, rfl, ?_, ?_⟩
    · rw [pushAll_cons, State.push_ram hslot, Res.bind_ok, hpush]
    · rw [htsp, State.pushed_sp, sub_two_sub_ofNat, List.length_cons]
    · rw [List.length_cons, popAll_succ_last, hpop, Res.bind_ok, hpopLast, Res.bind_ok, List.reverse_cons]
    · exact SameBytesBut.trans (u := u) (hfirst.mono fun j o h => ⟨0, Nat.zero_lt_succ _, h⟩)
        (hrest.mono fun j o ⟨k, hk, h⟩ => ⟨k + 1, Nat.succ_lt_succ hk, h⟩) rfl
    · rw [hu]; rfl

end Sys2Proof.Machine

/-! # Interrupts, faults and the halted core (60_exceptions.md) -/

namespace Sys2Proof.Machine

/-! ## Which line wins -/

/-- The first element of an ascending list with a property is the least one with it. -/
theorem find?_eq_some_iff_of_ascending {α : Type} [Preorder α] {xs : List α} {p : α → Bool} {x : α}
    (h : xs.Pairwise (· < ·)) :
    xs.find? p = some x ↔ x ∈ xs ∧ p x = true ∧ ∀ y ∈ xs, y < x → p y ≠ true := by
  rw [List.find?_eq_some_iff_append]
  constructor
  · rintro ⟨hx, front, back, rfl, hfront⟩
    refine ⟨by simp, hx, fun y hy hlt => ?_⟩
    obtain ⟨_, hback, _⟩ := List.pairwise_append.1 h
    rcases List.mem_append.1 hy with hy | hy
    · simpa using hfront y hy
    · rcases List.mem_cons.1 hy with rfl | hy
      · exact absurd hlt (lt_irrefl _)
      · exact absurd (hlt.trans (List.rel_of_pairwise_cons hback hy)) (lt_irrefl _)
  · rintro ⟨hmem, hx, hleast⟩
    obtain ⟨front, back, rfl⟩ := List.append_of_mem hmem
    obtain ⟨_, _, hlt⟩ := List.pairwise_append.1 h
    refine ⟨hx, front, back, rfl, fun y hy => ?_⟩
    simpa using hleast y (by simp [hy]) (hlt y hy x List.mem_cons_self)

theorem allLines_ascending : allLines.Pairwise (· < ·) := by decide

theorem mem_allLines (l : Line) : l ∈ allLines := by
  revert l; decide

theorem lowestLine_eq_some_iff {ie pend : Byte} {l : Line} :
    lowestLine ie pend = some l ↔
      ie.getLsbD l.val = true ∧ pend.getLsbD l.val = true ∧
        ∀ k : Line, k < l → ¬(ie.getLsbD k.val = true ∧ pend.getLsbD k.val = true) := by
  simp only [lowestLine, find?_eq_some_iff_of_ascending allLines_ascending, mem_allLines, true_and, true_imp_iff, ne_eq,
    Bool.and_eq_true, and_assoc]

theorem lowestLine_eq_none_iff {ie pend : Byte} : lowestLine ie pend = none ↔ ie &&& pend = 0#8 := by
  simp only [lowestLine, List.find?_eq_none, mem_allLines, true_imp_iff, Bool.not_eq_true]
  constructor
  · intro h
    refine BitVec.eq_of_getLsbD_eq fun k hk => ?_
    rw [BitVec.getLsbD_and, BitVec.getLsbD_zero]
    exact h ⟨k, hk⟩
  · intro h l
    rw [← BitVec.getLsbD_and, h, BitVec.getLsbD_zero]

/-! ## Setting and clearing one bit -/

theorem getLsbD_setBit (v : Byte) (l k : Line) :
    (v ||| bitMask l).getLsbD k.val = (v.getLsbD k.val || decide (k = l)) := by
  rw [BitVec.getLsbD_or, getLsbD_bitMask]

theorem getLsbD_clearBit (v : Byte) (l k : Line) :
    (v &&& ~~~ bitMask l).getLsbD k.val = (v.getLsbD k.val && !decide (k = l)) := by
  rw [BitVec.getLsbD_and, BitVec.getLsbD_not, getLsbD_bitMask, decide_eq_true k.isLt, Bool.true_and]

/-! ## What a read leaves: which device it marks, and what it commutes with -/

section
variable {s : State} {addr i off : Nat}

theorem State.touchAt_setHostCalls (s : State) (cs : List HostCall) (addr : Nat) :
    (s.setHostCalls cs).touchAt addr = (s.touchAt addr).setHostCalls cs := by
  simp only [State.touchAt, State.setHostCalls_resolve]
  cases s.resolve addr <;> rfl

/-- The device an address resolves to is marked; a region that names no device reads as a RAM, which has no mark. -/
theorem State.touchAt_device_self (h : s.resolve addr = some (i, off)) :
    (s.touchAt addr).device i = (s.device i).touch := by
  rw [State.touchAt_of_resolve h, State.device_setDevice]
  split
  · rfl
  · next hi =>
    have hmissing : s.device i = Device.missing :=
      List.getD_eq_default _ _ (Nat.not_lt.1 fun hlt => hi ⟨rfl, hlt⟩)
    rw [hmissing]
    rfl

theorem State.touchAt_device_ne (h : s.resolve addr = some (i, off)) {j : Nat} (hj : j ≠ i) :
    (s.touchAt addr).device j = s.device j := by
  rw [State.touchAt_of_resolve h, State.device_setDevice_ne hj]

theorem Device.touch_rom {d : Device} (h : d.isRom = true) : d.touch = { d with kind := .rom true } := by
  cases hk : d.kind with
  | ram => simp [Device.isRom, hk] at h
  | rom _ => simp [Device.touch, hk]

theorem Device.touch_withMem (d : Device) (m : Memory) : (d.withMem m).touch = d.touch.withMem m := by
  obtain ⟨kind, capacity, mem⟩ := d
  cases kind <;> rfl

/-- Marking a device and replacing the bytes of one, the same or another, commute. -/
theorem State.touchAt_withMem (s : State) (i : Nat) (m : Memory) (addr : Nat) :
    (s.setDevice i ((s.device i).withMem m)).touchAt addr =
      (s.touchAt addr).setDevice i (((s.touchAt addr).device i).withMem m) := by
  cases h : s.resolve addr with
  | none => simp only [State.touchAt, State.setDevice_resolve, h]
  | some slot =>
    obtain ⟨j, off⟩ := slot
    rw [State.touchAt_of_resolve (by simpa using h), State.touchAt_of_resolve h]
    by_cases hj : j = i
    · subst hj
      by_cases hlt : j < s.devices.length
      · simp only [State.device_setDevice_self hlt, State.setDevice_setDevice, Device.touch_withMem]
      · simp only [State.setDevice_of_le (Nat.not_lt.1 hlt)]
    · rw [State.device_setDevice_ne hj, State.device_setDevice_ne (Ne.symm hj)]
      simp only [State.setDevice, State.setDevices, List.set_comm _ _ (Ne.symm hj)]

theorem State.touchAt_pushed (s : State) (i off : Nat) (v : Word) (addr : Nat) :
    (s.pushed i off v).touchAt addr = (s.touchAt addr).pushed i off v := by
  have hmem : ((s.touchAt addr).device i).mem = (s.device i).mem := s.touchAt_mem addr i
  simp only [State.pushed, State.storeWord, State.touchAt_setSp, State.touchAt_withMem, hmem, State.touchAt_sp]

theorem State.touchAt_ramByte {addr' : Nat} :
    (s.touchAt addr').RamByte addr i off ↔ s.RamByte addr i off := by
  simp only [State.RamByte, Device.kind_ram_iff, State.touchAt_resolve, State.touchAt_isRom, State.touchAt_capacity]

theorem State.touchAt_ramWord {addr' : Nat} :
    (s.touchAt addr').RamWord addr i off ↔ s.RamWord addr i off := by
  simp only [State.RamWord, Device.kind_ram_iff, State.touchAt_resolve, State.touchAt_isRom, State.touchAt_capacity]

/-! ## A byte of RAM -/

theorem State.RamByte.peek (h : s.RamByte addr i off) : s.peek addr = some ((s.device i).mem.read off) :=
  State.peek_eq_some h.1 h.2.2

theorem State.RamByte.touchAt (h : s.RamByte addr i off) : s.touchAt addr = s := State.touchAt_of_ram h.1 h.2.1

theorem SameBytesBut.ramByte {t : State} {p : Nat → Nat → Prop} (h : SameBytesBut s t p) (hr : t.regions = s.regions)
    (hb : s.RamByte addr i off) : t.RamByte addr i off := by
  obtain ⟨hres, hkind, hc⟩ := hb
  obtain ⟨hkeepKind, hkeepCap, _⟩ := h.2 i
  exact ⟨by simpa [State.resolve, hr] using hres, hkeepKind.trans hkind, hkeepCap ▸ hc⟩

theorem State.RamByte.peek_storeByte (h : s.RamByte addr i off) (b : Byte) :
    (s.storeByte i off b).peek addr = some b := by
  have hi : i < s.devices.length := State.lt_of_capacity (Nat.zero_lt_of_lt h.2.2)
  rw [((s.storeByte_sameBytesBut i off b).ramByte rfl h).peek, State.storeByte_read hi]

end

/-! ## The line operations -/

section
variable {s t : State} {α : Type}

theorem lineOf_val (l : Line) : lineOf (l.val : Int) = some l := by
  have hrange : (0 : Int) ≤ l.val ∧ (l.val : Int) ≤ 7 := by omega
  simp [lineOf, hrange]

theorem lineOf_eq_none {line : Int} (h : line < 0 ∨ 7 < line) : lineOf line = none := dif_neg (by omega)

/-- A core operation that gives a value on a core that is not halted. -/
theorem State.coreCall_ok {body : State → Res α} {a : α} (reply : α → HostReply) (hs : s.fault = none)
    (h : body s = .ok a t) : s.coreCall body reply = .next (t.setReply (some (reply a))) := by
  simp [State.coreCall, State.answer, s.halted_eq_false_iff.2 hs, h]

/-- A core operation that raises returns no value (60_exceptions.md R145). -/
theorem State.coreCall_raised {body : State → Res α} (reply : α → HostReply) (hs : s.fault = none)
    (h : body s = .raised t) : s.coreCall body reply = .next (t.setReply (some .raised)) := by
  simp [State.coreCall, State.answer, s.halted_eq_false_iff.2 hs, h]

theorem State.coreCall_halted (body : State → Res α) (reply : α → HostReply) (hs : s.fault ≠ none) :
    s.coreCall body reply = .next (s.setReply (some (.error .halted))) :=
  if_pos (s.halted_eq_true_iff.2 hs)

theorem State.lineCall_ok {l : Line} {body : State → Line → Res α} {a : α} (reply : α → HostReply) (hs : s.fault = none)
    (h : body s l = .ok a t) : s.lineCall (l.val : Int) body reply = .next (t.setReply (some (reply a))) := by
  rw [State.lineCall, lineOf_val]
  exact State.coreCall_ok reply hs h

/-- Halted is checked before the line (60_exceptions.md R151 to R153). -/
theorem State.lineCall_halted (line : Int) (body : State → Line → Res α) (reply : α → HostReply)
    (hs : s.fault ≠ none) : s.lineCall line body reply = .next (s.setReply (some (.error .halted))) := by
  unfold State.lineCall
  split
  · rw [if_pos (s.halted_eq_true_iff.2 hs)]; rfl
  · exact State.coreCall_halted _ reply hs

theorem State.lineCall_badLine {line : Int} (body : State → Line → Res α) (reply : α → HostReply)
    (hs : s.fault = none) (h : line < 0 ∨ 7 < line) :
    s.lineCall line body reply = .next (s.setReply (some (.error .badLine))) := by
  simp [State.lineCall, lineOf_eq_none h, s.halted_eq_false_iff.2 hs, State.answer]

/-- A step with a call queued runs that call with it taken off the queue (entry 5). -/
theorem step_of_hostCalls {c : HostCall} {cs : List HostCall} (h : s.hostCalls = c :: cs) :
    step s = hostCall c (s.setHostCalls cs) := by
  rw [step, h]

/-! ## IF in RAM -/

/-- A read-modify-write of IF in RAM stores the modified byte and nothing else (60_exceptions.md R151, R153). -/
theorem State.modifyIF_ram {i off : Nat} (h : s.RamByte s.params.addrIF.toNat i off) (f : Byte → Byte) :
    (s.readIF.bind fun v s1 => s1.writeIF (f v)) = .ok () (s.storeByte i off (f ((s.device i).mem.read off))) := by
  rw [State.readIF, State.memRead8_of_peek h.peek, h.touchAt, Res.bind_ok]
  exact State.memWrite8_ram h _

theorem State.ifSet_ram {i off : Nat} (h : s.RamByte s.params.addrIF.toNat i off) (l : Line) :
    s.ifSet l = .ok () (s.storeByte i off ((s.device i).mem.read off ||| bitMask l)) :=
  State.modifyIF_ram h (· ||| bitMask l)

theorem State.ifClear_ram {i off : Nat} (h : s.RamByte s.params.addrIF.toNat i off) (l : Line) :
    s.ifClear l = .ok () (s.storeByte i off ((s.device i).mem.read off &&& ~~~ bitMask l)) :=
  State.modifyIF_ram h (· &&& ~~~ bitMask l)

theorem State.isInterruptRequested_of_peek {v : Byte} (h : s.peek s.params.addrIF.toNat = some v) (l : Line) :
    s.isInterruptRequested l = .ok (v.getLsbD l.val) (s.touchAt s.params.addrIF.toNat) := by
  rw [State.isInterruptRequested, State.readIF, State.memRead8_of_peek h, Res.bind_ok]

end

/-! ## Handling interrupts -/

/-- What `handle_interrupts()` leaves when it dispatches nothing: IE is read, and IF too if IE is not 0
(60_exceptions.md R154; the spec's decision D17). -/
def State.scanned (s : State) (ie : Byte) : State :=
  if ie = 0#8 then s.touchAt s.params.addrIE.toNat
  else (s.touchAt s.params.addrIE.toNat).touchAt s.params.addrIF.toNat

/-- The scan changes the devices alone. -/
theorem State.scanned_eq (s : State) (ie : Byte) : ∃ ds, s.scanned ie = s.setDevices ds := by
  unfold State.scanned
  split
  · exact s.touchAt_eq _
  · obtain ⟨ds, hds⟩ := s.touchAt_eq s.params.addrIE.toNat
    rw [hds]
    exact (s.setDevices ds).touchAt_eq _

@[simp] theorem State.scanned_params (s : State) (ie : Byte) : (s.scanned ie).params = s.params := by
  unfold State.scanned
  split <;> simp

@[simp] theorem State.scanned_sp (s : State) (ie : Byte) : (s.scanned ie).sp = s.sp := by
  unfold State.scanned
  split <;> simp

@[simp] theorem State.scanned_pc (s : State) (ie : Byte) : (s.scanned ie).pc = s.pc := by
  unfold State.scanned
  split <;> simp

@[simp] theorem State.scanned_resolve (s : State) (ie : Byte) (addr : Nat) :
    (s.scanned ie).resolve addr = s.resolve addr := by
  unfold State.scanned
  split <;> simp

theorem State.scanned_ramWord {s : State} {ie : Byte} {addr i off : Nat} :
    (s.scanned ie).RamWord addr i off ↔ s.RamWord addr i off := by
  unfold State.scanned
  split
  · exact State.touchAt_ramWord
  · rw [State.touchAt_ramWord, State.touchAt_ramWord]

theorem State.scanned_setHostCalls (s : State) (cs : List HostCall) (ie : Byte) :
    (s.setHostCalls cs).scanned ie = (s.scanned ie).setHostCalls cs := by
  simp only [State.scanned, State.setHostCalls_params, State.touchAt_setHostCalls]
  split <;> rfl

theorem State.scanned_peek (s : State) (ie : Byte) (addr : Nat) : (s.scanned ie).peek addr = s.peek addr := by
  unfold State.scanned
  split <;> simp

section
variable {s : State} {ie pend : Byte}

theorem State.scanned_of_ne (h : ie ≠ 0#8) :
    s.scanned ie = (s.touchAt s.params.addrIE.toNat).touchAt s.params.addrIF.toNat := if_neg h

/-- With IF in RAM, the scan marks the device of IE alone. -/
theorem State.scanned_of_ramByte {i off : Nat} (h : s.RamByte s.params.addrIF.toNat i off) :
    s.scanned ie = s.touchAt s.params.addrIE.toNat := by
  rw [State.scanned, (State.touchAt_ramByte.2 h).touchAt, ite_self]

theorem State.handleInterrupts_ie_zero (hie : s.peek s.params.addrIE.toNat = some 0#8) :
    s.handleInterrupts = .ok none (s.scanned 0#8) := by
  rw [State.handleInterrupts, State.readIE, State.memRead8_of_peek hie, Res.bind_ok, if_pos rfl, State.scanned,
    if_pos rfl]

/-- With IE not 0, the scan reads IF and takes the lowest line set in both, or none (60_exceptions.md R154, R155). -/
theorem State.handleInterrupts_of_peek (hie : s.peek s.params.addrIE.toNat = some ie) (hne : ie ≠ 0#8)
    (hpend : s.peek s.params.addrIF.toNat = some pend) :
    s.handleInterrupts =
      (lowestLine ie pend).elim (.ok none (s.scanned ie)) fun l =>
        ((s.scanned ie).takeInterrupt l).bind fun _ t => .ok (some l) t := by
  have hpend' : (s.touchAt s.params.addrIE.toNat).peek (s.touchAt s.params.addrIE.toNat).params.addrIF.toNat =
      some pend := by simpa using hpend
  rw [State.handleInterrupts, State.readIE, State.memRead8_of_peek hie, Res.bind_ok, if_neg hne, State.readIF,
    State.memRead8_of_peek hpend', Res.bind_ok, State.scanned, if_neg hne, State.touchAt_params]
  split
  · next hzero => rw [lowestLine_eq_none_iff.2 (by rw [hzero, BitVec.and_zero]), Option.elim_none]
  · cases lowestLine ie pend <;> rfl

/-- No line is both enabled and pending: nothing is dispatched (60_exceptions.md R154). -/
theorem State.handleInterrupts_none (hie : s.peek s.params.addrIE.toNat = some ie)
    (h : ie = 0#8 ∨ ∃ pend, s.peek s.params.addrIF.toNat = some pend ∧ ie &&& pend = 0#8) :
    s.handleInterrupts = .ok none (s.scanned ie) := by
  by_cases hzero : ie = 0#8
  · subst hzero
    exact State.handleInterrupts_ie_zero hie
  · obtain ⟨pend, hpend, hand⟩ := h.resolve_left hzero
    rw [State.handleInterrupts_of_peek hie hzero hpend, lowestLine_eq_none_iff.2 hand, Option.elim_none]

/-- Where a line wins, IE is not 0. -/
theorem enabled_ne_zero {l : Line} (h : lowestLine ie pend = some l) : ie ≠ 0#8 := by
  obtain ⟨henabled, _, _⟩ := lowestLine_eq_some_iff.1 h
  rintro rfl
  simp at henabled

/-- A line that is both enabled and pending is taken, the lowest of them (60_exceptions.md R154, R155). -/
theorem State.handleInterrupts_some {l : Line} (hie : s.peek s.params.addrIE.toNat = some ie)
    (hpend : s.peek s.params.addrIF.toNat = some pend) (hl : lowestLine ie pend = some l) :
    s.handleInterrupts = ((s.scanned ie).takeInterrupt l).bind fun _ t => .ok (some l) t := by
  rw [State.handleInterrupts_of_peek hie (enabled_ne_zero hl) hpend, hl, Option.elim_some]

end

/-! ## Interrupt entry -/

/-- What an interrupt entry finds in place: IF in a RAM, the stack slot in a RAM, the line's vector in one device, and
the slot overlapping neither (60_exceptions.md R154, R156). -/
structure State.EntryInPlace (s : State) (l : Line) (fi fo si so vi vo : Nat) : Prop where
  pending : s.RamByte s.params.addrIF.toNat fi fo
  slot : s.RamWord s.sp.toNat si so
  vector : s.resolve (s.vectorAddr l) = some (vi, vo)
  vector_fits : vo + 1 < (s.device vi).capacity
  slot_apart_pending : fi = si → fo < so ∨ so + 1 < fo
  slot_apart_vector : vi = si → vo + 1 < so ∨ so + 1 < vo

/-- An interrupt entry before its last access: PC in the stack slot, the vector in PC (60_exceptions.md R154). -/
def State.vectorLoaded (s : State) (l : Line) (si so : Nat) (vector : Word) : State :=
  ((s.touchAt (s.vectorAddr l)).pushed si so s.pc).setPc vector

/-- What taking an interrupt leaves: then the line's bit is cleared in IF (60_exceptions.md R154, R158). -/
def State.interruptEntry (s : State) (l : Line) (fi fo si so : Nat) (vector : Word) (pend : Byte) : State :=
  (s.vectorLoaded l si so vector).storeByte fi fo (pend &&& ~~~ bitMask l)

section
variable {s : State} {l : Line} {fi fo si so vi vo : Nat}

theorem State.EntryInPlace.touchAt (h : s.EntryInPlace l fi fo si so vi vo) (addr : Nat) :
    (s.touchAt addr).EntryInPlace l fi fo si so vi vo where
  pending := by simpa only [State.touchAt_params] using State.touchAt_ramByte.2 h.pending
  slot := by simpa only [State.touchAt_sp] using State.touchAt_ramWord.2 h.slot
  vector := by simpa [State.vectorAddr] using h.vector
  vector_fits := by simpa using h.vector_fits
  slot_apart_pending := h.slot_apart_pending
  slot_apart_vector := h.slot_apart_vector

/-- The vector is read after the push, and is the one before it. -/
theorem State.memRead16_vector_pushed (h : s.EntryInPlace l fi fo si so vi vo) (v : Word) :
    (s.pushed si so v).memRead16 (s.vectorAddr l) =
      .ok (joinBytes ((s.device vi).mem.read vo) ((s.device vi).mem.read (vo + 1)))
        ((s.touchAt (s.vectorAddr l)).pushed si so v) := by
  obtain ⟨_, hcap, hread⟩ := (s.pushed_sameBytesBut si so v).2 vi
  have hres : (s.pushed si so v).resolve (s.vectorAddr l) = some (vi, vo) := h.vector
  have hapart := h.slot_apart_vector
  rw [State.memRead16_of_resolve hres (hcap ▸ h.vector_fits), hread vo (by omega), hread (vo + 1) (by omega),
    State.touchAt_pushed]

theorem State.vectorLoaded_sameBytesBut (vector : Word) :
    SameBytesBut (s.touchAt (s.vectorAddr l)) (s.vectorLoaded l si so vector)
      (fun j o => j = si ∧ (o = so ∨ o = so + 1)) :=
  (s.touchAt (s.vectorAddr l)).pushed_sameBytesBut si so s.pc

@[simp] theorem State.vectorLoaded_params (vector : Word) : (s.vectorLoaded l si so vector).params = s.params :=
  s.touchAt_params (s.vectorAddr l)

/-- IF is where it was, and holds the byte it held: the push lies outside it. -/
theorem State.vectorLoaded_pending (h : s.EntryInPlace l fi fo si so vi vo) (vector : Word) :
    (s.vectorLoaded l si so vector).RamByte s.params.addrIF.toNat fi fo ∧
      ((s.vectorLoaded l si so vector).device fi).mem.read fo = (s.device fi).mem.read fo := by
  have hsame := s.vectorLoaded_sameBytesBut (l := l) (si := si) (so := so) vector
  obtain ⟨_, _, hread⟩ := hsame.2 fi
  have hapart := h.slot_apart_pending
  refine ⟨hsame.ramByte rfl (State.touchAt_ramByte.2 h.pending), ?_⟩
  rw [hread fo (by omega), State.touchAt_mem]

theorem State.takeInterrupt_ram (h : s.EntryInPlace l fi fo si so vi vo) :
    s.takeInterrupt l = .ok () (s.interruptEntry l fi fo si so
      (joinBytes ((s.device vi).mem.read vo) ((s.device vi).mem.read (vo + 1))) ((s.device fi).mem.read fo)) := by
  have hvec : (s.pushed si so s.pc).vectorAddr l = s.vectorAddr l := rfl
  rw [State.takeInterrupt, State.push_ram h.slot, Res.bind_ok, hvec, State.memRead16_vector_pushed h, Res.bind_ok]
  obtain ⟨hpending, hread⟩ := State.vectorLoaded_pending h
    (joinBytes ((s.device vi).mem.read vo) ((s.device vi).mem.read (vo + 1)))
  have hclear := State.ifClear_ram (s := s.vectorLoaded l si so _) (by rwa [State.vectorLoaded_params]) l
  rwa [hread] at hclear

theorem State.interruptEntry_sameBytesBut (vector : Word) (pend : Byte) :
    SameBytesBut (s.touchAt (s.vectorAddr l)) (s.interruptEntry l fi fo si so vector pend)
      (fun j o => (j = si ∧ (o = so ∨ o = so + 1)) ∨ (j = fi ∧ o = fo)) := by
  have hclear := (s.vectorLoaded l si so vector).storeByte_sameBytesBut fi fo (pend &&& ~~~ bitMask l)
  exact SameBytesBut.trans ((s.vectorLoaded_sameBytesBut vector).mono fun _ _ => .inl) (hclear.mono fun _ _ => .inr) rfl

@[simp] theorem State.interruptEntry_sp (vector : Word) (pend : Byte) :
    (s.interruptEntry l fi fo si so vector pend).sp = s.sp - 2#16 :=
  congrArg (· - 2#16) (s.touchAt_sp (s.vectorAddr l))

/-- The word pushed reads back, whatever reply is noted: the cleared IF byte lies outside its slot. -/
theorem State.interruptEntry_memRead16 (h : s.EntryInPlace l fi fo si so vi vo) (vector : Word) (pend : Byte)
    (r : Option HostReply) :
    ((s.interruptEntry l fi fo si so vector pend).setReply r).memRead16 s.sp.toNat =
      .ok s.pc ((s.interruptEntry l fi fo si so vector pend).setReply r) := by
  have hslot := (h.touchAt (s.vectorAddr l)).slot
  have hclear := (s.vectorLoaded l si so vector).storeByte_sameBytesBut fi fo (pend &&& ~~~ bitMask l)
  have hapart := h.slot_apart_pending
  have hread := State.memRead16_pushed (u := (s.interruptEntry l fi fo si so vector pend).setReply r) hslot rfl hclear
    (by omega)
  rwa [State.touchAt_sp] at hread

theorem State.interruptEntry_peek_pending (h : s.EntryInPlace l fi fo si so vi vo) (vector : Word) (pend : Byte) :
    (s.interruptEntry l fi fo si so vector pend).peek s.params.addrIF.toNat = some (pend &&& ~~~ bitMask l) :=
  (State.vectorLoaded_pending h vector).1.peek_storeByte _

theorem State.interruptEntry_eq (vector : Word) (pend : Byte) :
    s.interruptEntry l fi fo si so vector pend =
      { s with pc := vector, sp := s.sp - 2#16, devices := (s.interruptEntry l fi fo si so vector pend).devices } := by
  obtain ⟨ds, hds⟩ := s.touchAt_eq (s.vectorAddr l)
  rw [State.interruptEntry, State.vectorLoaded, hds]
  rfl

/-- The word pushed last reads back, whatever fault and reply are noted. -/
theorem State.pushed_memRead16 (h : s.RamWord s.sp.toNat si so) (v : Word) (f : Option Fault) (r : Option HostReply) :
    (((s.pushed si so v).setFault f).setReply r).memRead16 s.sp.toNat =
      .ok v (((s.pushed si so v).setFault f).setReply r) :=
  State.memRead16_pushed (p := fun _ _ => False) h rfl ⟨fun _ _ => rfl, fun _ => ⟨rfl, rfl, fun _ _ => rfl⟩⟩
    fun _ _ => not_false

/-- An unmapped vector raises after the push (60_exceptions.md R146). -/
theorem State.takeInterrupt_vector_unmapped (hslot : s.RamWord s.sp.toNat si so)
    (hvec : s.resolve (s.vectorAddr l) = none) :
    s.takeInterrupt l = .raised ((s.pushed si so s.pc).setFault (some (.unmappedAddress (s.vectorAddr l)))) := by
  have hvec' : (s.pushed si so s.pc).resolve ((s.pushed si so s.pc).vectorAddr l) = none := hvec
  rw [State.takeInterrupt, State.push_ram hslot, Res.bind_ok, State.memRead16_unmapped hvec', Res.bind_raised]
  rfl

/-- A read of IF leaves PC, SP and IR. -/
theorem State.readIF_regs (s : State) :
    s.readIF.state.pc = s.pc ∧ s.readIF.state.sp = s.sp ∧ s.readIF.state.ir = s.ir :=
  s.memRead8_regs s.params.addrIF.toNat

/-- A write of IF leaves PC, SP and IR. -/
theorem State.writeIF_regs (s : State) (v : Byte) :
    (s.writeIF v).state.pc = s.pc ∧ (s.writeIF v).state.sp = s.sp ∧ (s.writeIF v).state.ir = s.ir :=
  s.memWrite8_regs s.params.addrIF.toNat v

/-- Of the accesses of an interrupt entry that ends without a fault, only the push moves SP, and none writes IR. -/
theorem State.takeInterrupt_regs {t : State} (h : s.takeInterrupt l = .ok () t) :
    t.sp = s.sp - 2#16 ∧ t.ir = s.ir := by
  obtain ⟨_, s1, hpush, h⟩ := Res.bind_eq_ok.1 h
  obtain ⟨vector, s2, hvec, hclear⟩ := Res.bind_eq_ok.1 h
  obtain ⟨_, s0, hstore, hset⟩ := Res.bind_eq_ok.1 hpush
  obtain ⟨_, s3, hread, hwrite⟩ := Res.bind_eq_ok.1 hclear
  obtain ⟨_, hsp0, hir0⟩ := hstore ▸ s.memWrite16_regs s.sp.toNat s.pc
  obtain ⟨_, hsp2, hir2⟩ := hvec ▸ s1.memRead16_regs (s1.vectorAddr l)
  obtain ⟨_, hsp3, hir3⟩ := hread ▸ (s2.setPc vector).readIF_regs
  obtain ⟨_, hsp, hir⟩ := hwrite ▸ s3.writeIF_regs _
  cases hset
  simp only [Res.state, State.setSp_sp, State.setSp_ir, State.setPc_sp, State.setPc_ir] at *
  exact ⟨by rw [hsp, hsp3, hsp2, hsp0], by rw [hir, hir3, hir2, hir0]⟩

end

/-! ## What a step answers -/

theorem step_ne_fault (s : State) (f : Fault) : step s ≠ .fault f := by
  unfold step
  split
  · exact cycle_ne_fault s f
  · next c cs _ =>
    obtain ⟨r, t, h, _⟩ := hostCall_cases c (s.setHostCalls cs)
    simp [h]

/-- A step is refused exactly when it is a bare cycle of a halted core, as `Halted` (60_exceptions.md R147). -/
theorem step_refused_iff (s : State) (r : Refusal) :
    step s = .refused r ↔ r = .halted ∧ s.hostCalls = [] ∧ s.fault ≠ none := by
  unfold step
  split
  · next hcalls => rw [cycle_refused_iff, s.halted_eq_true_iff, and_comm, eq_true hcalls, true_and]
  · next c cs hcalls =>
    obtain ⟨a, t, h, _⟩ := hostCall_cases c (s.setHostCalls cs)
    simp [h, hcalls]

/-! ## What the policy allows -/

/-- The fault record and the log after an operation, as the policy has it: under `sentinel` no DeviceFault is recorded
anew, under `halt` nothing is logged, and no entry leaves the log (60_exceptions.md R142). -/
def FollowsPolicy (s t : State) : Prop :=
  (s.params.policy = .sentinel → (∀ r, s.fault ≠ some (.deviceFault r)) → ∀ r, t.fault ≠ some (.deviceFault r)) ∧
    (s.params.policy = .halt → t.devlog = s.devlog) ∧ s.devlog <+: t.devlog

theorem FollowsPolicy.of_eq {s t : State} (hf : t.fault = s.fault) (hl : t.devlog = s.devlog) : FollowsPolicy s t :=
  ⟨fun _ h => hf ▸ h, fun _ => hl, hl ▸ List.prefix_rfl⟩

theorem OpStep.followsPolicy {s t : State} (h : OpStep s t) : FollowsPolicy s t := by
  obtain ⟨_, _, log, _, _, _, flt, _, hlog, hflt, rfl⟩ := h
  refine ⟨fun hsent hnone r => ?_, fun hhalt => ?_, List.prefix_append s.devlog log⟩
  · rcases hflt with rfl | ⟨f, rfl, hraised⟩
    · exact hnone r
    · exact fun he => hraised hsent r (Option.some.inj he)
  · simp [hlog hhalt]

/-- Every operation but `reset()` follows the policy. -/
theorem CallEffect.followsPolicy {c : HostCall} {s t : State} (h : CallEffect c s t) :
    (c = .reset ∧ t = s.doReset) ∨ FollowsPolicy s t := by
  cases h with
  | cycleRan _ h =>
    obtain ⟨_, ⟨hop, _⟩ | ⟨_, t0, hop, _, _, _, _, rfl⟩⟩ := cycle_cases h
    · exact .inr hop.followsPolicy
    · have hpolicy : FollowsPolicy s t0 := hop.followsPolicy
      exact .inr hpolicy
  | interrupts _ _ h => exact .inr h.followsPolicy
  | line _ _ _ h _ _ => exact .inr h.followsPolicy
  | bus _ _ h => exact .inr (OpStep.of_busStep h).followsPolicy
  | reset hc ht => exact .inl ⟨hc, ht⟩
  | map _ _ _ _ _ _ _ h =>
    obtain ⟨_, _, _, rfl⟩ := State.busMap_ok_iff.1 h
    exact .inr (.of_eq rfl rfl)
  | unmap _ _ ht => exact .inr (.of_eq (by rw [ht]; rfl) (by rw [ht]; rfl))

/-! ## The bus operations and the fault record -/

/-- A bus result, with another fault record in the state it leaves. -/
def BusResult.withFault {α : Type} (f : Option Fault) : BusResult α → BusResult α
  | .ok a s => .ok a (s.setFault f)
  | .fail e s => .fail e (s.setFault f)

/-- The outcome of a step, with another fault record in the next state. -/
def outcomeWithFault (f : Option Fault) : Host.Outcome State Fault Refusal → Host.Outcome State Fault Refusal
  | .next s => .next (s.setFault f)
  | .fault e => .fault e
  | .refused r => .refused r

section
variable {s : State} {α : Type} (g : Option Fault)

theorem State.busAccess_setFault (addr : Nat) (f : Device → Nat → DevResult α) :
    (s.setFault g).busAccess addr f = (s.busAccess addr f).withFault g := by
  rcases s.busAccess_cases addr f with ⟨hres, hbus⟩ | ⟨i, off, hres, ⟨a, d, hd, hbus⟩ | ⟨e, d, hd, hbus⟩⟩
  · rw [hbus, State.busAccess_unmapped (s := s.setFault g) f hres]; rfl
  · rw [hbus, State.busAccess_ok (s := s.setFault g) hres hd]; rfl
  · rw [hbus, State.busAccess_fail (s := s.setFault g) hres hd]; rfl

theorem BusResult.countDraw_withFault (r : BusResult Unit) : (r.withFault g).countDraw = r.countDraw.withFault g := by
  rcases r with _ | ⟨_ | _, _⟩ <;> rfl

theorem BusResult.poke_withFault (reply : α → HostReply) (r : BusResult α) :
    (r.withFault g).poke reply = outcomeWithFault g (r.poke reply) := by
  cases r <;> rfl

theorem State.busWrite16_setFault (addr : Nat) (w : Word) :
    (s.setFault g).busWrite16 addr w = (s.busWrite16 addr w).withFault g := by
  rw [State.busWrite16, State.busAccess_setFault, BusResult.countDraw_withFault]
  rfl

theorem State.busMap_setFault (label : String) (device start size : Nat) (remap : Bool) :
    (s.setFault g).busMap label device start size remap =
      (s.busMap label device start size remap).map fun (tok, t) => (tok, t.setFault g) := by
  unfold State.busMap
  split
  · rfl
  · rw [apply_ite (Except.map _)]; rfl

theorem State.hostCall_map_setFault (label : String) (device start size : Nat) (remap : Bool) :
    hostCall (.map label device start size remap) (s.setFault g) =
      outcomeWithFault g (hostCall (.map label device start size remap) s) := by
  simp only [hostCall, State.busMap_setFault]
  cases s.busMap label device start size remap <;> rfl

theorem State.hostCall_load_setFault (data : List Byte) (addr : Nat) :
    hostCall (.load data addr) (s.setFault g) = outcomeWithFault g (hostCall (.load data addr) s) := by
  simp only [hostCall, State.busLoad, State.setFault_resolve, State.setFault_device]
  cases s.resolve addr with
  | none => rfl
  | some slot =>
    cases h : (s.device slot.1).load data slot.2 <;> simp only [h] <;> rfl

/-- No bus operation reads or writes the fault record (60_exceptions.md R147). -/
theorem hostCall_setFault {c : HostCall} (hbus : isBusCall c = true) :
    hostCall c (s.setFault g) = outcomeWithFault g (hostCall c s) := by
  cases c with
  | map label device start size remap => exact State.hostCall_map_setFault g label device start size remap
  | load data addr => exact State.hostCall_load_setFault g data addr
  | read addr => rw [State.hostCall_read, State.busRead, State.busAccess_setFault, BusResult.poke_withFault]; rfl
  | read16 addr => rw [State.hostCall_read16, State.busRead16, State.busAccess_setFault, BusResult.poke_withFault]; rfl
  | write addr v => rw [State.hostCall_write, State.busWrite, State.busAccess_setFault, BusResult.poke_withFault]; rfl
  | write16 addr v => rw [State.hostCall_write16, State.busWrite16_setFault, BusResult.poke_withFault]; rfl
  | unmap | byteLength | inspect => rfl
  | cycle | handleInterrupts | requestInterrupt | isInterruptRequested | clearInterruptFlag | reset => cases hbus

end

end Sys2Proof.Machine

/-! # The obligations of 60_exceptions.md -/

namespace Sys2Proof.Machine

/-- Settles O41. -/
theorem lowestLineWins : Obligations.LowestLineWins :=
  fun _ _ => ⟨fun _ => lowestLine_eq_some_iff, lowestLine_eq_none_iff⟩

/-- Settles O23. -/
theorem romWritesNeverFault : Obligations.RomWritesNeverFault := by
  intro s addr i off v w h
  have ⟨hres, hrom⟩ := h
  refine ⟨State.memWrite8_rom h v, State.memWrite16_rom h w, ?_, fun j => State.touchAt_device_ne hres,
    s.touchAt_peek addr, ?_⟩
  · rw [State.touchAt_device_self hres, Device.touch_rom hrom]
  · obtain ⟨ds, hds⟩ := s.touchAt_eq addr
    rw [hds]
    rfl

/-- Settles O27. -/
theorem byteDeviceFaultFollowsPolicy : Obligations.ByteDeviceFaultFollowsPolicy := by
  intro s addr i off v hres hc
  refine ⟨fun hhalt => ⟨?_, fun hk => ?_⟩, fun hsent => ⟨?_, fun hk => ?_⟩⟩
  · rw [State.memRead8_past hres hc, BusResult.settle_halt _ _ hhalt]; rfl
  · rw [State.memWrite8_past v hres hk hc, BusResult.settle_halt _ _ hhalt]; rfl
  · rw [State.memRead8_past hres hc, BusResult.settle_sentinel _ _ hsent]; rfl
  · rw [State.memWrite8_past v hres hk hc, BusResult.settle_sentinel _ _ hsent]; rfl

/-- Settles O37: the step is the read-modify-write of IF, on the state with the call taken off the queue. -/
theorem requestSetsPendingBit : Obligations.RequestSetsPendingBit := by
  intro s cs l i off hs hcalls hIF
  have hIF' : (s.setHostCalls cs).RamByte s.params.addrIF.toNat i off := hIF
  have hs' : (s.setHostCalls cs).fault = none := hs
  have hstep := (step_of_hostCalls hcalls).trans (State.lineCall_ok (fun _ => .done) hs' (State.ifSet_ram hIF' l))
  exact ⟨_, _, _, hstep, hIF.peek, hIF'.peek_storeByte _, getLsbD_setBit _ l, s.storeByte_sameBytesBut i off _, rfl⟩

/-- Settles O38, as O37. -/
theorem clearClearsPendingBit : Obligations.ClearClearsPendingBit := by
  intro s cs l i off hs hcalls hIF
  have hIF' : (s.setHostCalls cs).RamByte s.params.addrIF.toNat i off := hIF
  have hs' : (s.setHostCalls cs).fault = none := hs
  have hstep := (step_of_hostCalls hcalls).trans (State.lineCall_ok (fun _ => .done) hs' (State.ifClear_ram hIF' l))
  exact ⟨_, _, _, hstep, hIF.peek, hIF'.peek_storeByte _, getLsbD_clearBit _ l, s.storeByte_sameBytesBut i off _, rfl⟩

/-- Settles O39. -/
theorem isRequestedReportsBit : Obligations.IsRequestedReportsBit := by
  intro s cs l v hs hcalls hpeek
  have hpeek' : (s.setHostCalls cs).peek s.params.addrIF.toNat = some v := hpeek
  have hs' : (s.setHostCalls cs).fault = none := hs
  have hstep := (step_of_hostCalls hcalls).trans
    (State.lineCall_ok .flag hs' (State.isInterruptRequested_of_peek hpeek' l))
  rw [State.touchAt_setHostCalls] at hstep
  exact ⟨_, hstep, rfl, s.touchAt_peek _, rfl⟩

/-- Settles O42: the operation ends in its scan, which reads and marks but stores nothing. -/
theorem nothingToDispatch : Obligations.NothingToDispatch := by
  intro s cs ie hs hcalls hie hnone
  have hs' : (s.setHostCalls cs).fault = none := hs
  have hstep : step s = .next _ := (step_of_hostCalls hcalls).trans
    (State.coreCall_ok _ hs' (State.handleInterrupts_none (s := s.setHostCalls cs) hie hnone))
  rw [State.scanned_setHostCalls] at hstep
  exact ⟨_, hstep, rfl, s.scanned_peek ie, rfl⟩

/-- Settles O43: the scan leaves IF in RAM unmarked, so the entry starts from the state the read of IE leaves; what it
then leaves is `State.interruptEntry`, whose two stores do not overlap. -/
theorem dispatchTakesLowestLine : Obligations.DispatchTakesLowestLine := by
  intro s cs ie pend l fi fo si so vi vo hs hcalls hie hpend hiel hpendl hleast hIF hslot hvec hfits hapartIF hapartVec
  have hline := lowestLine_eq_some_iff.2 ⟨hiel, hpendl, hleast⟩
  obtain rfl : (s.device fi).mem.read fo = pend := Option.some.inj (hIF.peek.symm.trans hpend)
  have hs' : (s.setHostCalls cs).fault = none := hs
  have hbefore : (s.setHostCalls cs).EntryInPlace l fi fo si so vi vo :=
    ⟨hIF, hslot, hvec, hfits, hapartIF, hapartVec⟩
  have hplace := hbefore.touchAt s.params.addrIE.toNat
  have hentry := State.handleInterrupts_some (s := s.setHostCalls cs) hie hpend hline
  rw [State.scanned_of_ramByte hbefore.pending, State.setHostCalls_params, State.takeInterrupt_ram hplace, Res.bind_ok,
    State.touchAt_mem, State.touchAt_mem, joinBytes_eq_or] at hentry
  have hstep : step s = .next _ := (step_of_hostCalls hcalls).trans (State.coreCall_ok .line hs' hentry)
  refine ⟨_, _, hstep, rfl, rfl, ?sp, ?pushed, ?pending, getLsbD_clearBit _ l, ?bytes, ?frame⟩
  case sp => simp only [State.setReply_sp, State.interruptEntry_sp, State.touchAt_sp, State.setHostCalls_sp]
  case pushed => simpa using State.interruptEntry_memRead16 hplace _ _ (some (.line (some l)))
  case pending => simpa using State.interruptEntry_peek_pending hplace _ _
  case bytes =>
    have hsame := State.interruptEntry_sameBytesBut (s := (s.setHostCalls cs).touchAt s.params.addrIE.toNat) (l := l)
      (fi := fi) (fo := fo) (si := si) (so := so)
    simp only [State.touchAt_setHostCalls, State.vectorAddr, State.setHostCalls_params, State.touchAt_params] at hsame ⊢
    exact hsame _ _
  case frame =>
    obtain ⟨ds, hds⟩ := (s.setHostCalls cs).touchAt_eq s.params.addrIE.toNat
    rw [hds, State.interruptEntry_eq]
    rfl

/-- Settles O44: the push is done, and the read of the vector raises. -/
theorem dispatchVectorFault : Obligations.DispatchVectorFault := by
  intro s cs ie pend l si so hs hcalls hie hpend hiel hpendl hleast hslot hvec
  have hline := lowestLine_eq_some_iff.2 ⟨hiel, hpendl, hleast⟩
  have hs' : (s.setHostCalls cs).fault = none := hs
  have hslot' : ((s.setHostCalls cs).scanned ie).RamWord ((s.setHostCalls cs).scanned ie).sp.toNat si so := by
    rw [State.scanned_ramWord, State.scanned_sp]
    exact hslot
  have hvec' : ((s.setHostCalls cs).scanned ie).resolve (((s.setHostCalls cs).scanned ie).vectorAddr l) = none := by
    rw [State.scanned_resolve, State.vectorAddr, State.scanned_params]
    exact hvec
  have hraise := State.handleInterrupts_some (s := s.setHostCalls cs) hie hpend hline
  rw [State.takeInterrupt_vector_unmapped hslot' hvec', Res.bind_raised] at hraise
  have hstep : step s = .next _ := (step_of_hostCalls hcalls).trans (State.coreCall_raised .line hs' hraise)
  have hsame := ((s.setHostCalls cs).scanned ie).pushed_sameBytesBut si so ((s.setHostCalls cs).scanned ie).pc
  refine ⟨_, hstep, ?pc, ?sp, ?pushed, ?bytes, ?frame⟩
  case pc => exact (s.setHostCalls cs).scanned_pc ie
  case sp => exact congrArg (· - 2#16) ((s.setHostCalls cs).scanned_sp ie)
  case pushed =>
    have hread := State.pushed_memRead16 hslot' ((s.setHostCalls cs).scanned ie).pc
    simp only [State.scanned_sp, State.scanned_pc] at hread ⊢
    exact hread _ _
  case bytes =>
    have hscan : (s.setHostCalls cs).scanned ie =
        ((s.touchAt s.params.addrIE.toNat).touchAt s.params.addrIF.toNat).setHostCalls cs := by
      rw [State.scanned_setHostCalls, State.scanned_of_ne (enabled_ne_zero hline)]
    rw [hscan] at hsame ⊢
    exact hsame
  case frame =>
    obtain ⟨ds, hds⟩ := (s.setHostCalls cs).scanned_eq ie
    rw [hds, State.pushed_eq]
    rfl

/-- Settles O45: its accesses to memory leave IR and SP, which only the push moves. -/
theorem interruptEntryChangesOnlyPcAndSp : Obligations.InterruptEntryChangesOnlyPcAndSp := by
  intro s t l h
  obtain ⟨hsp, hir⟩ := State.takeInterrupt_regs h
  have hsteps := s.takeInterrupt_steps l
  rw [h] at hsteps
  obtain ⟨⟨ds, n, log, pc, sp, ir, flt, _, _, _, rfl⟩, hfault⟩ := hsteps
  obtain rfl : ir = s.ir := hir
  obtain rfl : flt = s.fault := hfault
  exact ⟨hsp, rfl⟩

/-- Settles O47: a bus operation commutes with the exchange of the fault record, so its result on a running core, put
under any record, is its result under that record. -/
theorem haltLeavesBusCallsAvailable : Obligations.HaltLeavesBusCallsAvailable := by
  intro s c f hbus
  obtain ⟨r, t, h, _⟩ := hostCall_cases c (s.setFault none)
  have hfault : ∀ g, hostCall c (s.setFault g) = .next ((t.setReply (some r)).setFault g) := by
    intro g
    have hg := hostCall_setFault (s := s.setFault none) g hbus
    rw [h] at hg
    exact hg
  refine ⟨t.setReply (some r), h, ?_, hfault f⟩
  have hsame := Host.Outcome.next.inj (h.symm.trans (hfault none))
  rw [hsame]
  rfl

/-- Settles O49: a step is no fault, and refused in the one case, so it answers a next state in every other. -/
theorem stepStopsOnlyWhenHalted : Obligations.StepStopsOnlyWhenHalted := by
  intro s
  refine ⟨step_ne_fault s, step_refused_iff s, fun ⟨t, ht⟩ hhalt => ?_, fun hrun => ?_⟩
  · have hrefused := (step_refused_iff s .halted).2 ⟨rfl, hhalt⟩
    rw [ht] at hrefused
    cases hrefused
  · cases h : step s with
    | next t => exact ⟨t, rfl⟩
    | fault f => exact absurd h (step_ne_fault s f)
    | refused r => exact absurd ((step_refused_iff s r).1 h).2 hrun

/-- Settles O50: every operation but `reset()` follows the policy, and `reset()` empties the record and the log. -/
theorem policyDecidesDeviceFaults : Obligations.PolicyDecidesDeviceFaults := by
  intro s t h
  obtain ⟨r, t0, he, rfl⟩ := step_effect h
  rcases he.followsPolicy with ⟨hc, rfl⟩ | ⟨hsent, hhalt, hlog⟩
  · refine ⟨fun _ _ => nofun, fun _ => .inr rfl, fun hne => ?_⟩
    exact absurd ((s.nextCall_eq_iff .reset nofun).1 hc) hne
  · exact ⟨hsent, fun hp => .inl (hhalt hp), fun _ => hlog⟩

/-- Settles O26. -/
theorem unmappedAccessesRaise : Obligations.UnmappedAccessesRaise :=
  fun _ _ v w h => ⟨State.memRead8_unmapped h, State.memRead16_unmapped h, State.memWrite8_unmapped v h,
    State.memWrite16_unmapped w h⟩

/-- Settles O40. -/
theorem linesOutsideRangeAreRefused : Obligations.LinesOutsideRangeAreRefused := by
  intro s cs c line hs hcalls hc hline
  have hs' : (s.setHostCalls cs).fault = none := hs
  rw [step_of_hostCalls hcalls]
  rcases hc with rfl | rfl | rfl <;> exact State.lineCall_badLine _ _ hs' hline

/-- Settles O46: each of the operations asks for the fault record first. -/
theorem haltedCoreRefuses : Obligations.HaltedCoreRefuses := by
  intro s hs
  refine ⟨fun hcalls => (step_refused_iff s .halted).2 ⟨rfl, hcalls, hs⟩, fun c cs line hcalls hc => ?_⟩
  have hs' : (s.setHostCalls cs).fault ≠ none := hs
  rw [step_of_hostCalls hcalls]
  rcases hc with rfl | rfl | rfl | rfl | rfl
  · exact if_pos ((State.halted_eq_true_iff _).2 hs')
  · exact State.coreCall_halted _ _ hs'
  all_goals exact State.lineCall_halted line _ _ hs'

end Sys2Proof.Machine

/-! # Reset and the cycle cost (70_reset_and_hazards.md) -/

namespace Sys2Proof.Machine

/-! ## Reset -/

section
variable (s : State)

/-- Which calls are still queued does not matter to a reset. -/
theorem State.doReset_setHostCalls (cs : List HostCall) :
    (s.setHostCalls cs).doReset = s.doReset.setHostCalls cs := rfl

/-- The whole step of a `reset()`: the call leaves the queue, and the host gets its answer, halted or not. -/
theorem State.step_of_reset {cs : List HostCall} (h : s.hostCalls = .reset :: cs) :
    step s = .next ((s.doReset.setHostCalls cs).setReply (some .done)) := by
  rw [step_of_hostCalls h, ← State.doReset_setHostCalls]
  rfl

theorem State.mapped_iff {i : Nat} : s.mapped i = true ↔ ∃ r ∈ s.regions, r.device = i := by
  simp [State.mapped]

theorem State.doReset_device_mapped {r : Region} (hr : r ∈ s.regions) :
    s.doReset.device r.device = (s.device r.device).reset := by
  rw [State.doReset_device, if_pos (s.mapped_iff.2 ⟨r, hr, rfl⟩)]

theorem State.doReset_device_unmapped {i : Nat} (h : ∀ r ∈ s.regions, r.device ≠ i) :
    s.doReset.device i = s.device i := by
  rw [State.doReset_device, if_neg]
  intro hmapped
  obtain ⟨r, hr, hi⟩ := s.mapped_iff.1 hmapped
  exact h r hr hi

/-- Every byte that could be read before a reset reads 0 after it, and no other can be read (20_memory.md R46, R62). -/
theorem State.doReset_peek (addr : Nat) : s.doReset.peek addr = (s.peek addr).map fun _ => 0#8 := by
  cases hres : s.resolve addr with
  | none => rw [State.peek_none_of_unmapped hres, State.peek_none_of_unmapped ((s.doReset_resolve addr).trans hres)]; rfl
  | some slot =>
    obtain ⟨i, off⟩ := slot
    have hdev : s.doReset.device i = (s.device i).reset := by
      rw [State.doReset_device, if_pos (State.mapped_of_resolve hres)]
    rw [State.peek_of_resolve hres, State.peek_of_resolve ((s.doReset_resolve addr).trans hres), hdev,
      Device.reset_capacity, Device.reset_mem, Memory.read_nil]
    split <;> rfl

/-- A general-purpose register put to 0 reads 0, whatever its width (10_state.md R26). -/
theorem Gpr.toNat_put_zero (g : Gpr) : (g.put 0).val.toNat = 0 :=
  (RegVal.toNat_put g.val 0).trans (by rw [Int.zero_emod]; rfl)

theorem State.doReset_regRead_gpr (k : Nat) :
    s.doReset.regRead (.gpr k) = (s.regRead (.gpr k)).map fun _ => 0 := by
  have hgprs : s.doReset.gprs = zeroGprs s.gprs := rfl
  simp only [State.regRead, hgprs, zeroGprs, List.getElem?_map, Option.map_map, Function.comp_def, Gpr.toNat_put_zero]

end

/-! ## The cycle cost -/

/-- A bus result, with another cycle cost in the state it leaves. -/
def BusResult.withCost {α : Type} (n : Nat) : BusResult α → BusResult α
  | .ok a s => .ok a (withCycleCost s n)
  | .fail f s => .fail f (withCycleCost s n)

/-- A result of the core, with another cycle cost in the state it leaves. -/
def Res.withCost {α : Type} (n : Nat) : Res α → Res α
  | .ok a s => .ok a (withCycleCost s n)
  | .raised s => .raised (withCycleCost s n)

/-- The outcome of a step, with another cycle cost in the next state. -/
def outcomeWithCost (n : Nat) : Host.Outcome State Fault Refusal → Host.Outcome State Fault Refusal
  | .next s => .next (withCycleCost s n)
  | .fault f => .fault f
  | .refused r => .refused r

section
variable {s : State} {α β : Type} (n : Nat)

@[simp] theorem withCycleCost_halted : (withCycleCost s n).halted = s.halted := rfl

@[simp] theorem withCycleCost_hostCalls : (withCycleCost s n).hostCalls = s.hostCalls := rfl

@[simp] theorem withCycleCost_resolve (addr : Nat) : (withCycleCost s n).resolve addr = s.resolve addr := rfl

@[simp] theorem withCycleCost_device (i : Nat) : (withCycleCost s n).device i = s.device i := rfl

/-- The table entry found for an opcode differs in its cycle cost alone, so its mnemonic is the same (30_encoding.md R86). -/
theorem decodeOpcode_withCycleCost (op : Byte) :
    decodeOpcode (withCycleCost s n).params op =
      (decodeOpcode s.params op).map fun e => { e with cycles := n } := by
  by_cases hop : s.params.opcLdaImm = op <;> simp [decodeOpcode, dispatchTable, withCycleCost, hop]

/-! ### Operations in sequence -/

theorem Res.bind_withCost {r : Res α} {f : α → State → Res β}
    (hf : ∀ a t, f a (withCycleCost t n) = (f a t).withCost n) :
    (r.withCost n).bind f = (r.bind f).withCost n := by
  cases r with
  | ok a t => exact hf a t
  | raised t => rfl

theorem Res.andThen_withCost {r : Res α} {f : α → State → Host.Outcome State Fault Refusal}
    (hf : ∀ a t, f a (withCycleCost t n) = outcomeWithCost n (f a t)) :
    (r.withCost n).andThen f = outcomeWithCost n (r.andThen f) := by
  cases r with
  | ok a t => exact hf a t
  | raised t => rfl

/-! ### Memory accesses -/

theorem State.busAccess_withCycleCost (addr : Nat) (f : Device → Nat → DevResult α) :
    (withCycleCost s n).busAccess addr f = (s.busAccess addr f).withCost n := by
  rcases s.busAccess_cases addr f with ⟨hres, hbus⟩ | ⟨i, off, hres, ⟨a, d, hd, hbus⟩ | ⟨e, d, hd, hbus⟩⟩
  · rw [hbus, State.busAccess_unmapped (s := withCycleCost s n) f hres]; rfl
  · rw [hbus, State.busAccess_ok (s := withCycleCost s n) hres hd]; rfl
  · rw [hbus, State.busAccess_fail (s := withCycleCost s n) hres hd]; rfl

theorem BusResult.countDraw_withCost (r : BusResult Unit) : (r.withCost n).countDraw = r.countDraw.withCost n := by
  rcases r with _ | ⟨_ | _, _⟩ <;> rfl

theorem State.busWrite16_withCycleCost (addr : Nat) (w : Word) :
    (withCycleCost s n).busWrite16 addr w = (s.busWrite16 addr w).withCost n := by
  rw [State.busWrite16, State.busAccess_withCycleCost, BusResult.countDraw_withCost]
  rfl

/-- What becomes of a device failure is decided by the policy, not by the cycle cost (60_exceptions.md R142). -/
theorem BusResult.settle_withCost (dflt : α) (r : BusResult α) :
    (r.withCost n).settle dflt = (r.settle dflt).withCost n := by
  rcases r with _ | ⟨_ | r, t⟩
  · rfl
  · rfl
  · cases hp : t.params.policy with
    | halt => rw [BusResult.settle_halt dflt r hp]; exact BusResult.settle_halt dflt r hp
    | sentinel => rw [BusResult.settle_sentinel dflt r hp]; exact BusResult.settle_sentinel dflt r hp

theorem State.memRead8_withCycleCost (addr : Nat) :
    (withCycleCost s n).memRead8 addr = (s.memRead8 addr).withCost n := by
  rw [State.memRead8, State.busRead, State.busAccess_withCycleCost, BusResult.settle_withCost]
  rfl

theorem State.memRead16_withCycleCost (addr : Nat) :
    (withCycleCost s n).memRead16 addr = (s.memRead16 addr).withCost n := by
  rw [State.memRead16, State.busRead16, State.busAccess_withCycleCost, BusResult.settle_withCost]
  rfl

theorem State.memWrite8_withCycleCost (addr : Nat) (v : Byte) :
    (withCycleCost s n).memWrite8 addr v = (s.memWrite8 addr v).withCost n := by
  rw [State.memWrite8, State.busWrite, State.busAccess_withCycleCost, BusResult.settle_withCost]
  rfl

theorem State.memWrite16_withCycleCost (addr : Nat) (v : Word) :
    (withCycleCost s n).memWrite16 addr v = (s.memWrite16 addr v).withCost n := by
  rw [State.memWrite16, State.busWrite16_withCycleCost, BusResult.settle_withCost]
  rfl

/-! ### The stack and the interrupt operations -/

theorem State.push_withCycleCost (v : Word) : (withCycleCost s n).push v = (s.push v).withCost n := by
  rw [State.push, State.memWrite16_withCycleCost]
  exact Res.bind_withCost n fun _ _ => rfl

theorem State.readIE_withCycleCost : (withCycleCost s n).readIE = s.readIE.withCost n :=
  State.memRead8_withCycleCost n _

theorem State.readIF_withCycleCost : (withCycleCost s n).readIF = s.readIF.withCost n :=
  State.memRead8_withCycleCost n _

theorem State.writeIF_withCycleCost (v : Byte) : (withCycleCost s n).writeIF v = (s.writeIF v).withCost n :=
  State.memWrite8_withCycleCost n _ v

theorem State.ifSet_withCycleCost (l : Line) : (withCycleCost s n).ifSet l = (s.ifSet l).withCost n := by
  rw [State.ifSet, State.readIF_withCycleCost]
  exact Res.bind_withCost n fun v _ => State.writeIF_withCycleCost n (v ||| bitMask l)

theorem State.ifClear_withCycleCost (l : Line) : (withCycleCost s n).ifClear l = (s.ifClear l).withCost n := by
  rw [State.ifClear, State.readIF_withCycleCost]
  exact Res.bind_withCost n fun v _ => State.writeIF_withCycleCost n (v &&& ~~~ bitMask l)

theorem State.isInterruptRequested_withCycleCost (l : Line) :
    (withCycleCost s n).isInterruptRequested l = (s.isInterruptRequested l).withCost n := by
  rw [State.isInterruptRequested, State.readIF_withCycleCost]
  exact Res.bind_withCost n fun _ _ => rfl

theorem State.takeInterrupt_withCycleCost (l : Line) :
    (withCycleCost s n).takeInterrupt l = (s.takeInterrupt l).withCost n := by
  unfold State.takeInterrupt
  rw [State.push_withCycleCost]
  refine Res.bind_withCost n fun _ t => ?_
  rw [State.memRead16_withCycleCost]
  exact Res.bind_withCost n fun vector u => State.ifClear_withCycleCost (s := u.setPc vector) n l

theorem State.handleInterrupts_withCycleCost :
    (withCycleCost s n).handleInterrupts = s.handleInterrupts.withCost n := by
  unfold State.handleInterrupts
  rw [State.readIE_withCycleCost]
  refine Res.bind_withCost n fun ie t => ?_
  split
  · rfl
  · rw [State.readIF_withCycleCost]
    refine Res.bind_withCost n fun pend u => ?_
    split
    · rfl
    · cases lowestLine ie pend with
      | none => rfl
      | some l =>
        simp only [State.takeInterrupt_withCycleCost]
        exact Res.bind_withCost n fun _ _ => rfl

/-! ### The cycle -/

theorem State.fetch8_withCycleCost : (withCycleCost s n).fetch8 = s.fetch8.withCost n := by
  rw [State.fetch8, State.memRead8_withCycleCost]
  exact Res.bind_withCost n fun _ _ => rfl

theorem State.fetch16_withCycleCost : (withCycleCost s n).fetch16 = s.fetch16.withCost n := by
  rw [State.fetch16, State.memRead16_withCycleCost]
  exact Res.bind_withCost n fun _ _ => rfl

theorem State.fetchInstruction_withCycleCost :
    (withCycleCost s n).fetchInstruction = s.fetchInstruction.withCost n := by
  rw [State.fetchInstruction, State.fetch8_withCycleCost]
  exact Res.bind_withCost n fun _ _ => rfl

theorem State.fetchOperand_withCycleCost (f : Format) :
    (withCycleCost s n).fetchOperand f = (s.fetchOperand f).withCost n := by
  cases f with
  | op => rfl
  | i8 => exact State.fetch8_withCycleCost n
  | i16 => exact State.fetch16_withCycleCost n

theorem exec_withCycleCost (i : Instr) (s : State) : exec i (withCycleCost s n) = outcomeWithCost n (exec i s) := by
  cases i with
  | ldaImm imm => rfl

theorem runEntry_withCycleCost (pc0 : Word) (op : Byte) (s : State) :
    runEntry pc0 op (withCycleCost s n) = outcomeWithCost n (runEntry pc0 op s) := by
  unfold runEntry
  rw [decodeOpcode_withCycleCost]
  cases decodeOpcode s.params op with
  | none => rfl
  | some e =>
    simp only [Option.map_some, State.fetchOperand_withCycleCost]
    exact Res.andThen_withCost n fun x t => exec_withCycleCost n (e.mnemonic.instr x) t

theorem cycle_withCycleCost : cycle (withCycleCost s n) = outcomeWithCost n (cycle s) := by
  unfold cycle
  rw [withCycleCost_halted, State.fetchInstruction_withCycleCost]
  split
  · rfl
  · exact Res.andThen_withCost n fun op t => runEntry_withCycleCost n s.pc op t

/-! ### The host's calls -/

theorem BusResult.poke_withCost (reply : α → HostReply) (r : BusResult α) :
    (r.withCost n).poke reply = outcomeWithCost n (r.poke reply) := by
  cases r <;> rfl

theorem State.coreCall_withCycleCost {body : State → Res α} (reply : α → HostReply)
    (hb : body (withCycleCost s n) = (body s).withCost n) :
    (withCycleCost s n).coreCall body reply = outcomeWithCost n (s.coreCall body reply) := by
  unfold State.coreCall
  rw [withCycleCost_halted, hb]
  split
  · rfl
  · cases body s <;> rfl

theorem State.lineCall_withCycleCost {body : State → Line → Res α} (line : Int) (reply : α → HostReply)
    (hb : ∀ l, body (withCycleCost s n) l = (body s l).withCost n) :
    (withCycleCost s n).lineCall line body reply = outcomeWithCost n (s.lineCall line body reply) := by
  unfold State.lineCall
  cases lineOf line with
  | none => rfl
  | some l => exact State.coreCall_withCycleCost n reply (hb l)

theorem State.cycleCall_withCycleCost : (withCycleCost s n).cycleCall = outcomeWithCost n s.cycleCall := by
  unfold State.cycleCall
  rw [withCycleCost_halted, cycle_withCycleCost]
  split
  · rfl
  · cases cycle s <;> rfl

theorem State.busMap_withCycleCost (label : String) (device start size : Nat) (remap : Bool) :
    (withCycleCost s n).busMap label device start size remap =
      (s.busMap label device start size remap).map fun (tok, t) => (tok, withCycleCost t n) := by
  unfold State.busMap
  split
  · rfl
  · rw [apply_ite (Except.map _)]; rfl

theorem State.busLoad_withCycleCost (data : List Byte) (addr : Nat) :
    (withCycleCost s n).busLoad data addr = (s.busLoad data addr).map fun t => withCycleCost t n := by
  cases hres : s.resolve addr with
  | none => simp only [State.busLoad, withCycleCost_resolve, hres]; rfl
  | some slot =>
    obtain ⟨i, off⟩ := slot
    have hres' : (withCycleCost s n).resolve addr = some (i, off) := hres
    rw [State.busLoad_of_resolve hres, State.busLoad_of_resolve hres', withCycleCost_device]
    cases (s.device i).load data off <;> rfl

/-- No interface operation reads or writes the cycle cost (70_reset_and_hazards.md R195). -/
theorem hostCall_withCycleCost (c : HostCall) :
    hostCall c (withCycleCost s n) = outcomeWithCost n (hostCall c s) := by
  cases c with
  | cycle => exact State.cycleCall_withCycleCost n
  | handleInterrupts => exact State.coreCall_withCycleCost n _ (State.handleInterrupts_withCycleCost n)
  | requestInterrupt line => exact State.lineCall_withCycleCost n line _ (State.ifSet_withCycleCost n)
  | isInterruptRequested line =>
    exact State.lineCall_withCycleCost n line _ (State.isInterruptRequested_withCycleCost n)
  | clearInterruptFlag line => exact State.lineCall_withCycleCost n line _ (State.ifClear_withCycleCost n)
  | reset | unmap | byteLength | inspect => rfl
  | map label device start size remap =>
    simp only [hostCall, State.busMap_withCycleCost]
    cases s.busMap label device start size remap <;> rfl
  | load data addr =>
    simp only [hostCall, State.busLoad_withCycleCost]
    cases s.busLoad data addr <;> rfl
  | read addr =>
    rw [State.hostCall_read, State.busRead, State.busAccess_withCycleCost, BusResult.poke_withCost]; rfl
  | read16 addr =>
    rw [State.hostCall_read16, State.busRead16, State.busAccess_withCycleCost, BusResult.poke_withCost]; rfl
  | write addr v =>
    rw [State.hostCall_write, State.busWrite, State.busAccess_withCycleCost, BusResult.poke_withCost]; rfl
  | write16 addr v =>
    rw [State.hostCall_write16, State.busWrite16_withCycleCost, BusResult.poke_withCost]; rfl

theorem step_withCycleCost (s : State) : step (withCycleCost s n) = outcomeWithCost n (step s) := by
  unfold step
  rw [withCycleCost_hostCalls]
  cases s.hostCalls with
  | nil => exact cycle_withCycleCost n
  | cons c cs => exact hostCall_withCycleCost (s := s.setHostCalls cs) n c

end

end Sys2Proof.Machine

/-! # The obligations of 70_reset_and_hazards.md -/

namespace Sys2Proof.Machine

/-- Settles O51: the registers are read off the updates of `doReset`; its devices and bytes have their own lemmas, and the
answer and the queue touch neither. -/
theorem resetGivesResetState : Obligations.ResetGivesResetState := by
  intro s cs h
  refine ⟨_, s.step_of_reset h, rfl, rfl, rfl, rfl, rfl, rfl, s.doReset_regRead_gpr, s.doReset_gprDecls, s.doReset_peek,
    fun r hr => ?mapped, fun i hi => ?unmapped, rfl, rfl, rfl, rfl⟩
  case mapped =>
    rw [State.setReply_device, State.setHostCalls_device, s.doReset_device_mapped hr]
    exact ⟨Device.reset_romAccessed _, Device.reset_mem _⟩
  case unmapped =>
    rw [State.setReply_device, State.setHostCalls_device, s.doReset_device_unmapped hi]

/-- Settles O60: the step commutes with the exchange of the cycle cost. -/
theorem cycleCostChangesNothing : Obligations.CycleCostChangesNothing := by
  refine ⟨fun p e he => ?_, fun s n => ⟨fun t ht => ?_, fun r hr => ?_⟩⟩
  · obtain rfl := List.mem_singleton.1 he
    rfl
  · rw [step_withCycleCost, ht]; rfl
  · rw [step_withCycleCost, hr]; rfl

/-- Settles O52. -/
theorem resetKeepsRegionList : Obligations.ResetKeepsRegionList :=
  fun s _ h => ⟨_, s.step_of_reset h, rfl, s.doReset_resolve⟩

end Sys2Proof.Machine
